-- ==== Sys2Proof/Word.lean ====
section
/-! DEFINITION. The plain bit-vector types of the block (rules R11, R12, R13 of spec/00_scope.md).

Every stream transfer moves one byte, every host access moves 32 bits, the host address is 16 bits wide.
All values are unsigned; nothing here is signed.
-/

namespace Sys2Proof

/-- One byte of a stream, of a frame image or of a payload buffer (R11, R82). -/
abbrev Byte := BitVec 8

/-- A 16-bit frame field: checksum, length, id (R91). -/
abbrev Half := BitVec 16

/-- A host register or bus data word (R11, R39). -/
abbrev Word := BitVec 32

/-- A host byte address (R11, R80). -/
abbrev HostAddr := BitVec 16

end Sys2Proof
end

