-- ==== Sys2Proof/Config.lean ====
section
/-! DEFINITION. The implementation parameters (rule R10), the events of the transition model (rule R15), and the
free values: everything the spec leaves open and no proof may fix.

The parameters stand in a structure of plain data that `State` carries unchanged (log entry 1): a statement about
every state is therefore a statement about every value of every parameter.
-/

namespace Sys2Proof

/-- `OVERRUN_POLICY` (R10, R237): what a new DATA unit does while undelivered data is still held. -/
inductive OverrunPolicy where
  | holdOff
  | overwrite
  deriving DecidableEq, Repr, Inhabited

/-- The implementation parameters of rule R10, under the spec's names. -/
structure Params where
  /-- `SYNC`: the value of each of the two synchronization markers. -/
  sync : BitVec 32
  /-- `MAX_PAYLOAD`: maximum payload bytes. -/
  maxPayload : Nat
  /-- `MAX_ATTEMPTS`: transmissions of one unit before giving up; also the receive liveness bound. -/
  maxAttempts : Nat
  /-- `RESET_ID`: the id field of a RESET frame this block sends. -/
  resetId : BitVec 16
  /-- `ACK_TIMEOUT`, in clock cycles. -/
  ackTimeout : Nat
  /-- `RX_TIMEOUT`, in clock cycles. -/
  rxTimeout : Nat
  /-- `TX_STALL_TIMEOUT`, in clock cycles. -/
  txStallTimeout : Nat
  /-- `OVERRUN_POLICY`. -/
  overrun : OverrunPolicy
  deriving DecidableEq, Repr, Inhabited

/-- The constraint column of rule R10's table. -/
abbrev Params.Wf (p : Params) : Prop :=
  (1 ≤ p.maxPayload ∧ p.maxPayload ≤ 4096) ∧ (1 ≤ p.maxAttempts ∧ p.maxAttempts ≤ 31) ∧
  (p.resetId ≠ 0 ∧ p.resetId ≠ 1) ∧
  1 ≤ p.ackTimeout ∧ 1 ≤ p.rxTimeout ∧ 1 ≤ p.txStallTimeout

/-- One transition, named by what fires it: the environment's and the timers' events of rule R15, the clock edge
the timers count (R65, R321), the arrival of a byte at the incoming stream (R77), and the three transitions that are
internal to the block (TX_GRANT R144, ACKED R205, the dispatcher's consumption of `RXR` R230/R231). -/
inductive Event where
  /-- The peer's byte comes to stand last in the incoming stream; any byte, at any time (R77). -/
  | arrive (b : Byte)
  /-- `rx_byte`: the incoming stream delivers its first waiting byte. -/
  | rxByte
  /-- `rx_err`: the incoming stream reports a read error. -/
  | rxErr
  /-- `rx_timeout`: `RX_TMR` has reached 0. -/
  | rxTimeout
  /-- `tx_take`: the outgoing stream accepts the byte offered. -/
  | txTake
  /-- `tx_err`: the outgoing stream reports a write error. -/
  | txErr
  /-- `tx_stall`: `STALL_TMR` has reached 0. -/
  | txStall
  /-- `ack_timeout`: `ACK_TMR` has reached 0. -/
  | ackTimeout
  /-- `bus_write(a, v)`. -/
  | busWrite (a : HostAddr) (v : Word)
  /-- `bus_read(a)`. -/
  | busRead (a : HostAddr)
  /-- `reset`: the hardware reset (R340). -/
  | reset
  /-- One clock cycle passes: armed timers count down (R65). -/
  | tick
  /-- TX_GRANT (R144): the arbiter starts a frame. -/
  | grant
  /-- ACKED (R205): the sender sees that its ACK came. -/
  | acked
  /-- The dispatcher consumes the round's result: MISS (R230) or CLASSIFY (R231). -/
  | dispatch
  deriving DecidableEq, Repr, Inhabited

namespace Config

/-- `SYNC` is `OPEN` (R10, R92): the model takes the value and assumes nothing of it. -/
opaque sync : BitVec 32

/-- `ACK_TIMEOUT` less one; `OPEN` (R10), at least 1 cycle. -/
opaque ackTimeoutPred : Nat

/-- `RX_TIMEOUT` less one; `OPEN` (R10), at least 1 cycle. -/
opaque rxTimeoutPred : Nat

/-- `TX_STALL_TIMEOUT` less one; `OPEN` (R10), at least 1 cycle. -/
opaque txStallTimeoutPred : Nat

/-- FREE VALUE. What a buffer byte that nothing has written since the `epoch`-th reset holds (R66): one unspecified
byte for each reset and each place, so that a repeated read repeats it (R83). Log entry 3. -/
opaque unspecifiedByte : (epoch place : Nat) → Byte

/-- FREE VALUE. Byte `k` of a byte sequence that has no byte `k`; no state a run reaches reads one. Log entry 4. -/
opaque absentByte : (k : Nat) → Byte

/-- FREE VALUE. Which transition the environment and the arbiter of rule R71 choose next, for the `n`-th choice that
the agenda in State does not make: "The choice among enabled transitions is free." Log entry 2. -/
opaque freeEvent : (n : Nat) → Event

/-- The parameters of the block after power-on: rule R10's defaults, and the free constants above where R10 says
`OPEN`. -/
def params : Params where
  sync := Config.sync
  maxPayload := 4096
  maxAttempts := 16
  resetId := 0xFFFF#16
  ackTimeout := Config.ackTimeoutPred + 1
  rxTimeout := Config.rxTimeoutPred + 1
  txStallTimeout := Config.txStallTimeoutPred + 1
  overrun := .holdOff

/-- The parameters every byte vector of spec/95_test_vectors.md is written for; its three timeouts, which no vector
fixes, are one cycle here. Used by tests and by `decodeTableWord`, whose answer does not depend on them. -/
def vectorParams : Params where
  sync := 0xDCC023C2#32
  maxPayload := 4096
  maxAttempts := 16
  resetId := 0xFFFF#16
  ackTimeout := 1
  rxTimeout := 1
  txStallTimeout := 1
  overrun := .holdOff

end Config

end Sys2Proof
end

