-- ==== Sys2Proof/Syntax.lean ====
section
/-! DEFINITION. The eight rows of spec/opcode_table.json: the four frame kinds the receive dispatcher acts on
(rule R100) and the four commands of the `CMD` register (rule R105).

A frame's operands are its id field and its payload: length and checksum follow from them (R90, R93). ACK and RESET
frames are accepted with a payload although this block sends none (D4, D5), so they carry one too.
-/

namespace Sys2Proof

/-- What the block decodes: a received frame, or a word written to `CMD`. -/
inductive Instr where
  /-- DATA, flags 0x00 (R236, R237). -/
  | dataFrame (id : Half) (payload : List Byte)
  /-- ACK, flags 0x80 (R233). -/
  | ackFrame (id : Half) (payload : List Byte)
  /-- END, flags 0x40 (R236). -/
  | endFrame (id : Half) (payload : List Byte)
  /-- RESET, flags 0x20 (R232). -/
  | resetFrame (id : Half) (payload : List Byte)
  /-- NOP, `CMD` = 0x00000000 (R267). -/
  | nop
  /-- SEND, `CMD` = 0x00000001 with `FINAL` in bit 8 and `NL` in bit 9 (R264). -/
  | send (final : Bool) (nl : Bool)
  /-- DACK, `CMD` = 0x00000002 (R263). -/
  | dack
  /-- START_RX, `CMD` = 0x00000003 (R265). -/
  | startRx
  deriving DecidableEq, Repr, Inhabited

end Sys2Proof
end

