-- ==== Sys2Proof/WellFormed.lean ====
section
/-! DEFINITION. Which instructions an encoding can carry: the id rule of R95/R102 and the length rule of R94. -/

namespace Sys2Proof

/-- DATA, ACK and END frames carry id 0 or 1 (R95, R102). -/
def Instr.idOk : Instr → Bool
  | .dataFrame id _ => id == 0 || id == 1
  | .ackFrame id _ => id == 0 || id == 1
  | .endFrame id _ => id == 0 || id == 1
  | .resetFrame _ _ => true
  | .nop => true
  | .send _ _ => true
  | .dack => true
  | .startRx => true

/-- A frame's `length` is at most `MAX_PAYLOAD` (R94, R174). -/
def Instr.lengthOk (p : Params) : Instr → Bool
  | .dataFrame _ d => decide (d.length ≤ p.maxPayload)
  | .ackFrame _ d => decide (d.length ≤ p.maxPayload)
  | .endFrame _ d => decide (d.length ≤ p.maxPayload)
  | .resetFrame _ d => decide (d.length ≤ p.maxPayload)
  | .nop => true
  | .send _ _ => true
  | .dack => true
  | .startRx => true

/-- A well-formed instruction for the parameters `p`. -/
def Instr.wf (p : Params) (i : Instr) : Bool := i.idOk && i.lengthOk p

end Sys2Proof
end

