-- ==== Sys2Proof/Decode.lean ====
section
/-! DEFINITION. From bits to instructions and back (30_encoding.md, 40_checksum.md, and the validator of
42_deserializer.md section 3).

The deserializer's byte-by-byte transitions are in Machine/Deserializer.lean; what they do with a whole candidate is
`validate` here, and `decodeFrame` is the same verdict for a byte sequence that lies whole. `encode` follows the
decoder.
-/

namespace Sys2Proof

/-! ### Bytes and multi-byte fields (R12, R13) -/

/-- `HDR_LEN`, the header size in bytes (R10, R90). -/
def hdrLen : Nat := 15

/-- `FRAME_MAX` = `HDR_LEN + MAX_PAYLOAD` (R10). -/
def frameMax (p : Params) : Nat := hdrLen + p.maxPayload

/-- `HUNT_LIMIT` = `FRAME_MAX` (R10, D9). -/
def huntLimit (p : Params) : Nat := frameMax p

/-- `NL_BYTE`, the newline sentinel (R97). -/
def nlByte : Byte := 0x0A#8

/-- `img[k]` (R12). A sequence without a byte `k` gives a free value (log entry 4). -/
def byteAt (img : List Byte) (k : Nat) : Byte := img.getD k (Config.absentByte k)

/-- `be16(img, k)` = `img[k]*256 + img[k+1]` (R13). -/
def be16 (img : List Byte) (k : Nat) : Half :=
  BitVec.ofNat 16 ((byteAt img k).toNat * 256 + (byteAt img (k + 1)).toNat)

/-- `be32(img, k)`, the most significant byte first (R13). -/
def be32 (img : List Byte) (k : Nat) : BitVec 32 :=
  BitVec.ofNat 32 ((((byteAt img k).toNat * 256 + (byteAt img (k + 1)).toNat) * 256
    + (byteAt img (k + 2)).toNat) * 256 + (byteAt img (k + 3)).toNat)

/-- `bytes_be16(v)` = `[v[15:8], v[7:0]]` (R13). -/
def bytesBe16 (v : Half) : List Byte := [v.extractLsb' 8 8, v.extractLsb' 0 8]

/-- `bytes_be32(v)`: four bytes, the most significant first (R13). -/
def bytesBe32 (v : BitVec 32) : List Byte :=
  [v.extractLsb' 24 8, v.extractLsb' 16 8, v.extractLsb' 8 8, v.extractLsb' 0 8]

/-! ### The checksum unit (40_checksum.md) -/

/-- `add_32` (R12). -/
def add32 (x y : Nat) : Nat := (x + y) % 2 ^ 32

/-- The accumulation loop of R120, from the accumulator `acc`: big-endian words, an odd trailing byte padded with a
zero low byte (R121). -/
def sumWords (acc : Nat) : List Byte → Nat
  | [] => acc
  | [hi] => add32 acc (hi.toNat * 256 + 0)
  | hi :: lo :: rest => sumWords (add32 acc (hi.toNat * 256 + lo.toNat)) rest

/-- The folding loop of R122, at most `fuel` passes: while a bit above bit 15 is set, the part above is added to the
low 16 bits. -/
def foldSum : (fuel acc : Nat) → Nat
  | 0, acc => acc
  | fuel + 1, acc => if acc / 2 ^ 16 = 0 then acc else foldSum fuel (acc % 2 ^ 16 + acc / 2 ^ 16)

/-- `cksum(buf)` (R120 to R123). Two passes fold any 32-bit accumulator (`foldSum_lt`); the third is never used. -/
def cksum (buf : List Byte) : Half := ~~~ BitVec.ofNat 16 (foldSum 3 (sumWords 0 buf))

/-- The image with its checksum field zero (R124, R125). -/
def zeroChecksum (img : List Byte) : List Byte := (img.set 8 0).set 9 0

/-- CKGEN (R124): the checksum of the zeroed image goes into bytes 8 and 9. -/
def ckgen (img : List Byte) : List Byte :=
  let c := cksum (zeroChecksum img)
  (img.set 8 (c.extractLsb' 8 8)).set 9 (c.extractLsb' 0 8)

/-- CKVER (R125): exact equality of the stored checksum with the recomputed one, over exactly `15 + L` bytes. -/
def ckver (img : List Byte) : Bool :=
  be16 img 8 == cksum ((zeroChecksum img).take (hdrLen + (be16 img 10).toNat))

/-! ### Frame kinds and images (R90 to R102, R140) -/

/-- The four frame kinds (R100). -/
inductive Kind where
  | data
  | ack
  | fin
  | reset
  deriving DecidableEq, Repr, Inhabited

/-- A kind's flags byte (R100). -/
def Kind.flags : Kind → Byte
  | .data => 0x00#8
  | .ack => 0x80#8
  | .fin => 0x40#8
  | .reset => 0x20#8

/-- The flags decode: exact match of all 8 bits (R100); the other 252 values select no kind (R101). -/
def Kind.ofFlags (f : Byte) : Option Kind :=
  if f = 0x00#8 then some .data
  else if f = 0x80#8 then some .ack
  else if f = 0x40#8 then some .fin
  else if f = 0x20#8 then some .reset
  else none

/-- The instruction a frame of this kind stands for. -/
def Kind.instr (k : Kind) (id : Half) (d : List Byte) : Instr :=
  match k with
  | .data => .dataFrame id d
  | .ack => .ackFrame id d
  | .fin => .endFrame id d
  | .reset => .resetFrame id d

/-- ENCODE, the spec's `encode(id, flags, p)` (R140): the image of R91 with its checksum. -/
def frameImage (p : Params) (id : Half) (flags : Byte) (d : List Byte) : List Byte :=
  ckgen (bytesBe32 p.sync ++ bytesBe32 p.sync
    ++ [0x00#8, 0x00#8]
    ++ bytesBe16 (BitVec.ofNat 16 d.length)
    ++ bytesBe16 id
    ++ [flags]
    ++ d)

/-- A validated frame: the content of `RXR`'s `FRAME(id, flags, length, payload)` (R63, R179). -/
structure Frame where
  id : Half
  flags : Byte
  length : Half
  payload : List Byte
  deriving DecidableEq, Repr, Inhabited

/-- The rejection causes of a receive round (R300); `TIMEOUT` is no rejection and has code 7 (R230). -/
inductive Reject where
  | sync
  | length
  | checksum
  | flags
  | id
  | stream
  deriving DecidableEq, Repr, Inhabited

/-- `code(c)`, the cause code of R300. -/
def Reject.code : Reject → BitVec 3
  | .sync => 1#3
  | .length => 2#3
  | .checksum => 3#3
  | .flags => 4#3
  | .id => 5#3
  | .stream => 6#3

/-- `validate()` (R176 to R179): checksum, then flags, then id; RESET passes with any id. -/
def validate (img : List Byte) : Except Reject Frame :=
  let pl := (be16 img 10).toNat
  let flags := byteAt img 14
  let id := be16 img 12
  if ckver (img.take (hdrLen + pl)) = false then .error .checksum
  else if Kind.ofFlags flags = none then .error .flags
  else if flags ≠ 0x20#8 ∧ id ≠ 0#16 ∧ id ≠ 1#16 then .error .id
  else .ok { id := id, flags := flags, length := be16 img 10, payload := (img.drop hdrLen).take pl }

/-- The instruction a validated frame stands for, by its flags byte (R100, R231). -/
def Frame.toInstr (f : Frame) : Option Instr :=
  (Kind.ofFlags f.flags).map (fun k => k.instr f.id f.payload)

/-! ### Decoding -/

/-- What the block decodes: a frame's bytes from the wire, or a word written to `CMD`. -/
inductive Code where
  | frame (img : List Byte)
  | cmd (w : Word)
  deriving DecidableEq, Repr, Inhabited

/-- Why bits are no instruction. -/
inductive DecodeError where
  /-- A rejection cause of R300. -/
  | reject (r : Reject)
  /-- The byte sequence ends before its frame does: the deserializer waits for more (R173, R175). -/
  | truncated
  /-- Bytes follow the frame: they belong to the stream, not to the frame (R179, R182). -/
  | trailing
  /-- `OP` is reserved (R107). -/
  | cmdOpcode
  /-- A bit of [31:10] is nonzero (R106, R107). -/
  | cmdReserved
  /-- `FINAL` or `NL` with an opcode other than SEND (R107). -/
  | cmdArgument
  deriving DecidableEq, Repr, Inhabited

/-- The verdict on a byte sequence that is to be one frame, in the check order of R183. -/
def decodeFrame (p : Params) (img : List Byte) : Except DecodeError Instr :=
  if img.length < hdrLen then .error .truncated
  else if be32 img 0 ≠ p.sync ∨ be32 img 4 ≠ p.sync then .error (.reject .sync)
  else if p.maxPayload < (be16 img 10).toNat then .error (.reject .length)
  else if img.length < hdrLen + (be16 img 10).toNat then .error .truncated
  else if hdrLen + (be16 img 10).toNat < img.length then .error .trailing
  else match validate img with
    | .error r => .error (.reject r)
    | .ok f => match f.toInstr with
      | none => .error (.reject .flags)
      | some i => .ok i

/-- The decode of a word written to `CMD` (R105, R106, R107, R260). -/
def decodeCmd (v : Word) : Except DecodeError Instr :=
  let op := v.extractLsb' 0 8
  if 0x03#8 < op then .error .cmdOpcode
  else if v.extractLsb' 10 22 ≠ 0#22 then .error .cmdReserved
  else if op ≠ 0x01#8 ∧ v.extractLsb' 8 2 ≠ 0#2 then .error .cmdArgument
  else if op = 0x00#8 then .ok .nop
  else if op = 0x01#8 then .ok (.send (v.getLsbD 8) (v.getLsbD 9))
  else if op = 0x02#8 then .ok .dack
  else .ok .startRx

/-- Decoding, total: an instruction, or a rejection by name. -/
def decode (p : Params) : Code → Except DecodeError Instr
  | .frame img => decodeFrame p img
  | .cmd w => decodeCmd w

/-! ### Encoding -/

/-- The `CMD` word of a SEND (R106, R264). -/
def sendWord (final nl : Bool) : Word :=
  0x00000001#32 ||| ((BitVec.ofBool final).setWidth 32 <<< 8) ||| ((BitVec.ofBool nl).setWidth 32 <<< 9)

/-- The bits of an instruction (R140 with the flags of R100; R105, R106). -/
def encode (p : Params) : Instr → Code
  | .dataFrame id d => .frame (frameImage p id Kind.data.flags d)
  | .ackFrame id d => .frame (frameImage p id Kind.ack.flags d)
  | .endFrame id d => .frame (frameImage p id Kind.fin.flags d)
  | .resetFrame id d => .frame (frameImage p id Kind.reset.flags d)
  | .nop => .cmd 0x00000000#32
  | .send final nl => .cmd (sendWord final nl)
  | .dack => .cmd 0x00000002#32
  | .startRx => .cmd 0x00000003#32

/-! ### The opcode table's words -/

/-- What the decoder reads from an instruction whose opcode-table bits are `w`. A `wire_frame` row gives 8 bits, the
flags byte; the frame's id and length are then zero and its framing (sync markers, checksum) is what R140 writes
around them. A `cmd_word` row gives all 32 bits. No row has another width. -/
def decodeTableWord (nbits w : Nat) : Option Instr :=
  if nbits = 8 then
    (decode Config.vectorParams
      (.frame (frameImage Config.vectorParams 0#16 (BitVec.ofNat 8 w) []))).toOption
  else if nbits = 32 then (decode Config.vectorParams (.cmd (BitVec.ofNat 32 w))).toOption
  else none

end Sys2Proof
end

