-- ==== Sys2Proof/Machine/State.lean ====
section
/-! DEFINITION. The state of the block as plain data (10_state.md), its value after reset (R341), and the reasons a
step can stop.

The fields are in the spec's groups: parameters, Link State, control state, host-visible registers, sender,
dispatcher and deserializer, serializer, timers, ports. The last five are the model's own: the two streams, the agenda
of transitions, and two counters that free values are drawn with.
-/

namespace Sys2Proof.Machine

/-! ### The types of the control state and of the round's result -/

/-- `SND` (R31). Values 5 to 7 are never taken and have no name here (log entry 17). -/
inductive SndState where
  | idle
  | send
  | wait
  | reset
  | halt
  deriving DecidableEq, Repr, Inhabited

/-- `DSP` (R32). Values 6 and 7 are never taken and have no name here (log entry 17). -/
inductive DspState where
  | off
  | recv
  | ack
  | done
  | expired
  | halt
  deriving DecidableEq, Repr, Inhabited

/-- `DES` (R33). -/
inductive DesState where
  | hunt
  | hdr
  | pay
  deriving DecidableEq, Repr, Inhabited

/-- `SER` (R34). -/
inductive SerState where
  | idle
  | busy
  deriving DecidableEq, Repr, Inhabited

/-- `TX_OWNER` (R64). -/
inductive Owner where
  | none
  | snd
  | dsp
  deriving DecidableEq, Repr, Inhabited

/-- `STATUS.FATAL_CAUSE` (R41, R303). Value 3 is never produced and has no name here (log entry 17). -/
inductive FatalCause where
  | none
  | peerReset
  | exhausted
  deriving DecidableEq, Repr, Inhabited

/-- `RXR`, the round-result slot (R63). -/
inductive RoundResult where
  | empty
  | timeout
  | reject (r : Reject)
  | frame (f : Frame)
  deriving DecidableEq, Repr, Inhabited

/-! ### Register groups -/

/-- The Link State (R20) but for `RXBUF`, whose bytes are in `State.mem`. -/
structure LinkState where
  nextSendId : BitVec 1
  awaitAck : Bool
  outId : BitVec 1
  lrValid : Bool
  lrId : BitVec 1
  newData : Bool
  rxLen : BitVec 13
  peerEnd : Bool
  localEnd : Bool
  deriving DecidableEq, Repr, Inhabited

/-- The nine event counters (R48). -/
structure Counters where
  rxFrames : BitVec 32
  rxTimeout : BitVec 32
  rxInvalid : BitVec 32
  txFrames : BitVec 32
  retx : BitVec 32
  dup : BitVec 32
  ackStale : BitVec 32
  overrun : BitVec 32
  txIoErr : BitVec 32
  deriving DecidableEq, Repr, Inhabited

/-- The bytes of the host address space's two buffers that were written since the last reset, keyed by host byte
address: `TXBUF[i]` at 0x4000+4i, `RXBUF[i]` at 0x8000+4i (R80). Addresses strictly rise; an unlisted address holds
no written byte. -/
abbrev Memory := List Host.Cell

/-- The state of the block, of its two streams and of the choices still to be taken. -/
structure State where
  /-- The parameters of R10. No step changes them (log entry 1). -/
  cfg : Params
  /-- `LS` (R20). -/
  ls : LinkState
  /-- `SND` (R31). -/
  snd : SndState
  /-- `DSP` (R32). -/
  dsp : DspState
  /-- `DES` (R33). -/
  des : DesState
  /-- `SER` (R34). -/
  ser : SerState
  /-- `STATUS.TX_DONE` (R41). -/
  txDone : Bool
  /-- `STATUS.TX_OK` (R41). -/
  txOk : Bool
  /-- `STATUS.FATAL` (R41, R50). -/
  fatal : Bool
  /-- `STATUS.FATAL_CAUSE` (R41, R50). -/
  fatalCause : FatalCause
  /-- `STATUS.CMD_ERR` (R41). -/
  cmdErr : Bool
  /-- `STATUS.BUS_ERR` (R41). -/
  busErr : Bool
  /-- `TX_LEN.LEN` (R43). -/
  txLen : BitVec 13
  /-- `IRQ_EN` (R45). -/
  irqEn : BitVec 5
  /-- `LAST_ERR.CODE` (R46). -/
  lastErr : BitVec 3
  /-- The nine counters (R48). -/
  cnt : Counters
  /-- `TXBUF` and `RXBUF` (R49, R80). -/
  mem : Memory
  /-- `SND_IMG` (R60): the bytes written. -/
  sndImg : List Byte
  /-- `SND_LEN` (R60). -/
  sndLen : Nat
  /-- `SND_ID` (R60). -/
  sndId : BitVec 1
  /-- `SND_FINAL` (R60). -/
  sndFinal : Bool
  /-- `ATTEMPTS` (R61). -/
  attempts : BitVec 5
  /-- `RX_MISS` (R62). -/
  rxMiss : BitVec 5
  /-- `WIN` (R63): the bytes written, of which the first `WIN_N` are valid. -/
  win : List Byte
  /-- `WIN_N` (R63). -/
  winN : Nat
  /-- `HUNT_CNT` (R63). -/
  huntCnt : Nat
  /-- `CAND` (R63): the bytes written, of which the first `CAND_N` are valid. -/
  cand : List Byte
  /-- `CAND_N` (R63). -/
  candN : Nat
  /-- `CAND_PL` (R63). -/
  candPl : Half
  /-- `RXR` (R63). -/
  rxr : RoundResult
  /-- `TX_OWNER` (R64). -/
  txOwner : Owner
  /-- `TX_POS` (R64). -/
  txPos : Nat
  /-- `ACK_IMG` (R64): the bytes written. -/
  ackImg : List Byte
  /-- `ACK_REQ` (R64). -/
  ackReq : Bool
  /-- `SND_REQ` (R64). -/
  sndReq : Bool
  /-- `ACK_TMR` (R65): disarmed, or the cycles left. -/
  ackTmr : Option Nat
  /-- `RX_TMR` (R65): disarmed, or the cycles left. -/
  rxTmr : Option Nat
  /-- `STALL_TMR` (R65): disarmed, or the cycles left. -/
  stallTmr : Option Nat
  /-- `stream_close` (R67). -/
  streamClose : Bool
  /-- The port `bus_rdata` (R322): what the last `bus_read` returned (log entry 8). -/
  busRdata : Word
  /-- MODEL'S OWN. The bytes waiting in the incoming stream, oldest first (log entry 7). -/
  rxStream : List Byte
  /-- MODEL'S OWN. The bytes the outgoing stream has taken, oldest first (log entry 7). -/
  txStream : List Byte
  /-- MODEL'S OWN. The transitions chosen to fire next, oldest first (log entry 2). -/
  agenda : List Event
  /-- MODEL'S OWN. How many choices of a transition were drawn from the free value (log entry 2). -/
  draws : Nat
  /-- MODEL'S OWN. How many resets there were (log entry 3). -/
  epoch : Nat
  deriving DecidableEq, Repr, Inhabited

/-- Why the machine stops. No state a run reaches has one of these combinations (`Safety.Inv` rules them out); in
each the spec's rules name no effect, so the model stops rather than go on: safe. -/
inductive Fault where
  /-- Raised by `dispatch` when `RXR` holds a FRAME whose flags select no kind. R231's case has no arm for it, and
  R177 keeps such a frame out of `RXR`. Safe. -/
  | reservedFrameInSlot
  /-- Raised by `txTake`, `txErr`, `txStall` when a frame of no owner is being sent, or ends while its owner's state
  waits for none: R146 and R147 name no completion for that. Safe. -/
  | ownerMismatch
  deriving DecidableEq, Repr

/-- Why an instruction is refused. -/
inductive Refusal where
  /-- Raised by `exec` for an instruction that has no meaning yet, by its mnemonic in spec/opcode_table.json. Safe.
  Every row of the table has its meaning, so no arm raises it. -/
  | notModelled (mnemonic : String)
  deriving DecidableEq, Repr

/-- What one step answers. -/
abbrev Result := Host.Outcome State Fault Refusal

/-! ### Reset -/

/-- Every Link State field at the reset value of R341. -/
def LinkState.reset : LinkState where
  nextSendId := 0
  awaitAck := false
  outId := 0
  lrValid := false
  lrId := 0
  newData := false
  rxLen := 0
  peerEnd := false
  localEnd := false

/-- Every counter at its reset value 0 (R48, R341). -/
def Counters.reset : Counters where
  rxFrames := 0
  rxTimeout := 0
  rxInvalid := 0
  txFrames := 0
  retx := 0
  dup := 0
  ackStale := 0
  overrun := 0
  txIoErr := 0

/-- R341's table for a block built with the parameters `p`. -/
def State.resetWith (p : Params) : State where
  cfg := p
  ls := LinkState.reset
  snd := .idle
  dsp := .off
  des := .hunt
  ser := .idle
  txDone := false
  txOk := false
  fatal := false
  fatalCause := .none
  cmdErr := false
  busErr := false
  txLen := 0
  irqEn := 0
  lastErr := 0
  cnt := Counters.reset
  mem := []
  sndImg := []
  sndLen := 0
  sndId := 0
  sndFinal := false
  attempts := 0
  rxMiss := 0
  win := []
  winN := 0
  huntCnt := 0
  cand := []
  candN := 0
  candPl := 0
  rxr := .empty
  txOwner := .none
  txPos := 0
  ackImg := []
  ackReq := false
  sndReq := false
  ackTmr := none
  rxTmr := none
  stallTmr := none
  streamClose := false
  busRdata := 0
  rxStream := []
  txStream := []
  agenda := []
  draws := 0
  epoch := 0

/-- The machine right after its first reset (R341), built with R10's defaults and the free `OPEN` parameters. -/
def State.reset : State := State.resetWith Config.params

end Sys2Proof.Machine
end

