-- ==== Sys2Proof/Machine/Flags.lean ====
section
/-! DEFINITION. Every value the block computes from its state for the host or for a port: the status words
(R41, R42, R43, R44, R47), the interrupt line (R310), and the handshake outputs (R145, R76).

A register's fields are concatenated from bit 31 down, so that the widths of R41's and R42's tables must add up.
-/

namespace Sys2Proof.Machine

/-- The value of `LINK.SND_STATE` (R31, R42). -/
def SndState.code : SndState → BitVec 3
  | .idle => 0#3
  | .send => 1#3
  | .wait => 2#3
  | .reset => 3#3
  | .halt => 4#3

/-- The value of `LINK.DSP_STATE` (R32, R42). -/
def DspState.code : DspState → BitVec 3
  | .off => 0#3
  | .recv => 1#3
  | .ack => 2#3
  | .done => 3#3
  | .expired => 4#3
  | .halt => 5#3

/-- The value of `STATUS.FATAL_CAUSE` (R303). -/
def FatalCause.code : FatalCause → BitVec 2
  | .none => 0#2
  | .peerReset => 1#2
  | .exhausted => 2#2

/-- `SND` ∈ {`S_SEND`, `S_WAIT`, `S_RESET`} (R41, R302). -/
def SndState.busy : SndState → Bool
  | .idle => false
  | .send => true
  | .wait => true
  | .reset => true
  | .halt => false

/-- `STATUS.TX_BUSY` (R41). -/
def State.txBusy (s : State) : Bool := s.snd.busy

/-- `STATUS.RX_RUN` (R41): `DSP` ∈ {`D_RECV`, `D_ACK`}. -/
def State.rxRun (s : State) : Bool := s.dsp == .recv || s.dsp == .ack

/-- `STATUS.RX_DONE` (R41). -/
def State.rxDone (s : State) : Bool := s.dsp == .done

/-- `STATUS.RX_EXPIRED` (R41). -/
def State.rxExpired (s : State) : Bool := s.dsp == .expired

/-- A read of `STATUS` (R41). -/
def State.statusWord (s : State) : Word :=
  0#21 ++ BitVec.ofBool s.busErr ++ BitVec.ofBool s.cmdErr ++ s.fatalCause.code ++ BitVec.ofBool s.fatal
    ++ BitVec.ofBool s.rxExpired ++ BitVec.ofBool s.rxDone ++ BitVec.ofBool s.rxRun
    ++ BitVec.ofBool s.txOk ++ BitVec.ofBool s.txDone ++ BitVec.ofBool s.txBusy

/-- A read of `LINK` (R42). -/
def State.linkWord (s : State) : Word :=
  0#5 ++ s.dsp.code ++ s.snd.code ++ s.rxMiss ++ 0#3 ++ s.attempts
    ++ BitVec.ofBool s.ls.localEnd ++ BitVec.ofBool s.ls.peerEnd ++ BitVec.ofBool s.ls.newData
    ++ s.ls.lrId ++ BitVec.ofBool s.ls.lrValid ++ s.ls.outId ++ BitVec.ofBool s.ls.awaitAck
    ++ s.ls.nextSendId

/-- A read of `CFG` (R47). -/
def cfgWord (p : Params) : Word :=
  0#11 ++ BitVec.ofNat 5 p.maxAttempts ++ 0#3 ++ BitVec.ofNat 13 p.maxPayload

/-- The interrupt output: R310's formula. DEDUCED (log entry 23): the fatal state, where `DSP` = `D_HALT`, clears the
fourth term, against R310's prose. -/
def State.irq (s : State) : Bool :=
  (s.irqEn.getLsbD 0 && s.txDone)
  || (s.irqEn.getLsbD 1 && s.ls.newData)
  || (s.irqEn.getLsbD 2 && s.ls.peerEnd)
  || (s.irqEn.getLsbD 3 && (s.rxDone || s.rxExpired))
  || (s.irqEn.getLsbD 4 && s.fatal)

/-- `rx_ready`: the deserializer takes bytes only while the dispatcher is in `D_RECV` and `RXR` is empty (R76). -/
def State.rxReady (s : State) : Bool := s.dsp == .recv && s.rxr == .empty

/-- `tx_valid` (R145). -/
def State.txValid (s : State) : Bool := s.ser == .busy

end Sys2Proof.Machine
end

