-- ==== Sys2Proof/Machine/Operands.lean ====
section
/-! DEFINITION. Where operands come from: the host address map (R80), the bytes of the two payload buffers
(R49, R66), the payload of a SEND (R200), and the byte on offer at the outgoing stream (R145).
-/

namespace Sys2Proof.Machine

/-! ### Memory cells -/

/-- The byte written at host address `a` since the last reset, if there is one. -/
def Memory.read : Memory → Nat → Option Byte
  | [], _ => none
  | (k, v) :: m, a => if a = k then some v else Memory.read m a

/-- Write byte `b` at host address `a`, keeping the addresses rising. -/
def Memory.write : Memory → Nat → Byte → Memory
  | [], a, b => [(a, b)]
  | (k, v) :: m, a, b =>
    if a < k then (a, b) :: (k, v) :: m
    else if a = k then (a, b) :: m
    else (k, v) :: Memory.write m a b

/-- Write bytes at `a`, `a+4`, `a+8`, …: one byte in each host word (R80). -/
def Memory.writeRun (m : Memory) (a : Nat) : List Byte → Memory
  | [] => m
  | b :: bs => Memory.writeRun (Memory.write m a b) (a + 4) bs

/-- The canonical form: addresses strictly rise. An unlisted address holds no written byte, so no entry can equal
what an unlisted address reads as. -/
abbrev Memory.Wf (m : Memory) : Prop := m.Pairwise (fun x y => x.1 < y.1)

/-- The canonical form as a Bool. -/
def Memory.wf (m : Memory) : Bool := decide (Memory.Wf m)

/-- The byte at host address `a`: what was written there since the last reset, else that place's unspecified byte
(R66), a free value. -/
def State.byteOf (s : State) (a : Nat) : Byte :=
  (Memory.read s.mem a).getD (Config.unspecifiedByte s.epoch a)

/-! ### The address map (R80) -/

/-- The host address of `TXBUF[i]`. -/
def txBufAddr (i : Nat) : Nat := 0x4000 + 4 * i

/-- The host address of `RXBUF[i]`. -/
def rxBufAddr (i : Nat) : Nat := 0x8000 + 4 * i

/-- The nine counters by name (R48). -/
inductive CounterName where
  | rxFrames
  | rxTimeout
  | rxInvalid
  | txFrames
  | retx
  | dup
  | ackStale
  | overrun
  | txIoErr
  deriving DecidableEq, Repr, Inhabited

/-- A counter's value. -/
def Counters.get (c : Counters) : CounterName → BitVec 32
  | .rxFrames => c.rxFrames
  | .rxTimeout => c.rxTimeout
  | .rxInvalid => c.rxInvalid
  | .txFrames => c.txFrames
  | .retx => c.retx
  | .dup => c.dup
  | .ackStale => c.ackStale
  | .overrun => c.overrun
  | .txIoErr => c.txIoErr

/-- What a host address names. -/
inductive Target where
  /-- Address bits [1:0] are not 0 (R81). -/
  | misaligned
  /-- No line of R80's map has the address. -/
  | unmapped
  | cmd
  | status
  | link
  | txLen
  | rxLen
  | irqEn
  | lastErr
  | cfg
  | counter (c : CounterName)
  | txBuf (i : Nat)
  | rxBuf (i : Nat)
  deriving DecidableEq, Repr, Inhabited

/-- The register at word index `k` of 0x0000 to 0x0040 (R40 to R48). -/
def regAt (k : Nat) : Target :=
  match k with
  | 0 => .cmd
  | 1 => .status
  | 2 => .link
  | 3 => .txLen
  | 4 => .rxLen
  | 5 => .irqEn
  | 6 => .lastErr
  | 7 => .cfg
  | 8 => .counter .rxFrames
  | 9 => .counter .rxTimeout
  | 10 => .counter .rxInvalid
  | 11 => .counter .txFrames
  | 12 => .counter .retx
  | 13 => .counter .dup
  | 14 => .counter .ackStale
  | 15 => .counter .overrun
  | 16 => .counter .txIoErr
  | _ => .unmapped

/-- The address map of R80 with the alignment rule of R81. -/
def target (p : Params) (a : HostAddr) : Target :=
  let n := a.toNat
  if n % 4 ≠ 0 then .misaligned
  else if n ≤ 0x0040 then regAt (n / 4)
  else if n < 0x4000 then .unmapped
  else if n < 0x8000 then
    if (n - 0x4000) / 4 < p.maxPayload then .txBuf ((n - 0x4000) / 4) else .unmapped
  else if n < 0xC000 then
    if (n - 0x8000) / 4 < p.maxPayload then .rxBuf ((n - 0x8000) / 4) else .unmapped
  else .unmapped

/-! ### The operands of SEND (R200) -/

/-- `TXBUF[0 .. n-1]`. -/
def State.txBytes (s : State) (n : Nat) : List Byte :=
  (List.range n).map (fun i => s.byteOf (txBufAddr i))

/-- `p` of R200: the host's bytes, then `NL_BYTE` if `NL` = 1. -/
def State.sendPayload (s : State) (nl : Bool) : List Byte :=
  s.txBytes s.txLen.toNat ++ (if nl then [nlByte] else [])

/-- `n` of R264: `TX_LEN.LEN + NL`. -/
def State.sendSize (s : State) (nl : Bool) : Nat := s.txLen.toNat + nl.toNat

/-- The flags byte of a unit's frame (R141): END if `FINAL`, else DATA. -/
def unitFlags (final : Bool) : Byte := if final then Kind.fin.flags else Kind.data.flags

/-! ### The frame on the outgoing stream (R145) -/

/-- `IMG`: the image of the frame `TX_OWNER` sends. -/
def State.txImage (s : State) : List Byte :=
  match s.txOwner with
  | .none => []
  | .snd => s.sndImg
  | .dsp => s.ackImg

/-- The frame length: `SND_LEN` or 15. -/
def State.txFrameLen (s : State) : Nat :=
  match s.txOwner with
  | .none => 0
  | .snd => s.sndLen
  | .dsp => hdrLen

/-- `tx_data` = `IMG[TX_POS]`. -/
def State.txData (s : State) : Byte := byteAt s.txImage s.txPos

end Sys2Proof.Machine
end

