-- ==== Sys2Proof/Machine/Ops.lean ====
section
/-! DEFINITION. The operations several transitions share: writing the receive buffer, arming timers, queueing an
ACK, starting and ending a round (R170, R239), the two host-interface errors (R261, R262), entering the fatal state
(R302) and leaving it by reset (R340).

Pseudocode of one transition runs from top to bottom: a test after a write sees the written value (log entry 6).
-/

namespace Sys2Proof.Machine

/-! ### Counters and ids -/

/-- `add_32(c, 1)`: counters wrap to 0 at 2^32 (R48). -/
def bump (c : BitVec 32) : BitVec 32 := c + 1

/-- A 1-bit id register as a frame's 16-bit id field (R95). -/
def idField (i : BitVec 1) : Half := i.setWidth 16

/-- A frame's id field as a 1-bit register (R22). A DATA, ACK or END frame that was decoded has id 0 or 1 (R178). -/
def idBit (id : Half) : BitVec 1 := id.setWidth 1

/-! ### Timers (R65, R321) -/

/-- Arm `ACK_TMR` to `ACK_TIMEOUT`. -/
def State.armAck (s : State) : State := { s with ackTmr := some s.cfg.ackTimeout }

/-- Arm `RX_TMR` to `RX_TIMEOUT`. -/
def State.armRx (s : State) : State := { s with rxTmr := some s.cfg.rxTimeout }

/-- Arm `STALL_TMR` to `TX_STALL_TIMEOUT`. -/
def State.armStall (s : State) : State := { s with stallTmr := some s.cfg.txStallTimeout }

/-- One clock cycle of a timer: an armed down-counter falls by one and rests at 0; a disarmed one stays disarmed. -/
def countDown : Option Nat → Option Nat
  | none => none
  | some n => some (n - 1)

/-- One clock cycle (R65, R321). -/
def State.countTimers (s : State) : State :=
  { s with ackTmr := countDown s.ackTmr, rxTmr := countDown s.rxTmr, stallTmr := countDown s.stallTmr }

/-! ### Rounds (R170, R239) -/

/-- ROUND_START (R170). -/
def State.roundStart (s : State) : State :=
  { s with des := .hunt, winN := 0, huntCnt := 0, candN := 0, candPl := 0, rxr := .empty,
           rxTmr := some s.cfg.rxTimeout }

/-- `round_end()` (R239): both ends latched, or the liveness bound reached, or another round. -/
def State.roundEnd (s : State) : State :=
  if s.ls.peerEnd = true ∧ s.ls.localEnd = true then { s with dsp := .done }
  else if s.rxMiss.toNat = s.cfg.maxAttempts then { s with dsp := .expired }
  else State.roundStart { s with dsp := .recv }

/-! ### ACKs and units (R142, R143, R208) -/

/-- Queue the ACK of `id` and wait for it to be sent (R142; the last two lines of R235 and R236). -/
def State.queueAck (s : State) (id : Half) : State :=
  { s with ackImg := frameImage s.cfg id Kind.ack.flags [], ackReq := true, dsp := .ack }

/-- `RXBUF[0 .. L-1] <- d; LS.RX_LEN <- L; LS.NEW_DATA <- 1` (R236). -/
def State.deliver (s : State) (d : List Byte) : State :=
  { s with mem := Memory.writeRun s.mem (rxBufAddr 0) d,
           ls := { s.ls with rxLen := BitVec.ofNat 13 d.length, newData := true } }

/-- `give_up()`, part 1 of R208: the RESET image replaces the unit's. -/
def State.giveUp (s : State) : State :=
  { s with sndImg := frameImage s.cfg s.cfg.resetId Kind.reset.flags [], sndLen := hdrLen, sndReq := true,
           snd := .reset }

/-! ### Host-interface errors (R261, R262, R304) -/

/-- `command_error()` (R262): `CMD_ERR` is set and nothing else changes. -/
def State.commandError (s : State) : State := { s with cmdErr := true }

/-- BUS_REFUSE (R261): `BUS_ERR` is set and nothing else changes. -/
def State.busRefuse (s : State) : State := { s with busErr := true }

/-! ### The fatal state: entry (R302) and the only exit (R340) -/

/-- `raise Fatal(cause)` (R302), with the serializer's abort (R149). The Link State keeps its values.

DEDUCED (log entry 23): `DSP <- D_HALT` also leaves `D_EXPIRED` and `D_DONE`, and so clears the interrupt source that
R310's prose says only `IRQ_EN` or reset clears; R302's pseudocode and R310's formula are followed. -/
def State.raiseFatal (s : State) (cause : FatalCause) : State :=
  { s with
    fatal := true
    fatalCause := cause
    txDone := s.txDone || s.snd.busy
    txOk := s.txOk && !s.snd.busy
    snd := .halt
    dsp := .halt
    ser := .idle
    txOwner := .none
    ackReq := false
    sndReq := false
    rxr := .empty
    des := .hunt
    ackTmr := none
    rxTmr := none
    stallTmr := none
    streamClose := true }

/-- The `reset` event (R340, R341): every state item takes its reset value, whatever the state before. The streams
are not the block's and keep their bytes (R342); the parameters are built in; the bytes of the buffers become
unspecified anew. -/
def State.hardReset (s : State) : State :=
  { State.resetWith s.cfg with
    rxStream := s.rxStream
    txStream := s.txStream
    agenda := s.agenda
    draws := s.draws
    epoch := s.epoch + 1 }

end Sys2Proof.Machine
end

