-- ==== Sys2Proof/Machine/Sender.lean ====
section
/-! DEFINITION. The transitions of the ARQ sender (43_arq_sender.md). Each is the effect alone; when it is enabled
stands in Machine/Fetch.lean (R76), and what completes or fails a frame in Machine/Serializer.lean.
-/

namespace Sys2Proof.Machine

/-- ACCEPT (R200): the unit's image is built once, and its first attempt is queued. -/
def State.accept (s : State) (final nl : Bool) : State :=
  { s with
    sndId := s.ls.nextSendId
    sndFinal := final
    sndImg := frameImage s.cfg (idField s.ls.nextSendId) (unitFlags final) (s.sendPayload nl)
    sndLen := hdrLen + (s.sendPayload nl).length
    attempts := 0
    sndReq := true
    snd := .send }

/-- ATTEMPT_DONE (R203): the frame went out, and the sender waits. -/
def State.attemptDone (s : State) : State :=
  { s.armAck with
    attempts := s.attempts + 1
    ls := { s.ls with awaitAck := true, outId := s.sndId }
    snd := .wait }

/-- ATTEMPT_FAIL (R204): a local I/O failure counts as an attempt, and the next one is queued at once. -/
def State.attemptFail (s : State) : State :=
  let s := { s with attempts := s.attempts + 1 }
  if s.attempts.toNat = s.cfg.maxAttempts then s.giveUp
  else { s with sndReq := true, cnt := { s.cnt with retx := bump s.cnt.retx } }

/-- ACKED (R205): the unit succeeded. -/
def State.acked (s : State) : State :=
  { s with
    ls := { s.ls with nextSendId := 1 - s.ls.nextSendId, localEnd := s.ls.localEnd || s.sndFinal }
    ackTmr := none
    txDone := true
    txOk := true
    snd := .idle }

/-- ACK_TIMEOUT (R206): retransmit, or give up after the last attempt. -/
def State.ackTimeout (s : State) : State :=
  if s.attempts.toNat = s.cfg.maxAttempts then s.giveUp
  else { s with sndReq := true, cnt := { s.cnt with retx := bump s.cnt.retx }, snd := .send }

end Sys2Proof.Machine
end

