-- ==== Sys2Proof/Machine/Commands.lean ====
section
/-! DEFINITION. The meanings of the four commands of `CMD` (45_host_commands.md section 2). A write to `CMD` performs
its command in the transition of the write (R75, R260).
-/

namespace Sys2Proof.Machine

/-- When SEND is refused (R264). -/
def State.sendRefused (s : State) (nl : Bool) : Bool :=
  s.fatal || s.snd != .idle || s.ls.localEnd || decide (s.cfg.maxPayload < s.sendSize nl)

/-- NOP (R267): no effect, also in the fatal state. -/
def execNop (s : State) : Result := .next s

/-- SEND (R264): ACCEPT (R200), or a command error. -/
def execSend (final nl : Bool) (s : State) : Result :=
  if s.sendRefused nl then .next s.commandError else .next (s.accept final nl)

/-- DACK (R263): release the delivered payload. -/
def execDack (s : State) : Result :=
  if s.fatal then .next s.commandError else .next { s with ls := { s.ls with newData := false } }

/-- START_RX (R265): start the dispatcher, once. -/
def execStartRx (s : State) : Result :=
  if s.fatal || s.dsp != .off then .next s.commandError
  else .next (State.roundStart { s with rxMiss := 0, dsp := .recv })

end Sys2Proof.Machine
end

