-- ==== Sys2Proof/Machine/Dispatcher.lean ====
section
/-! DEFINITION. The receive dispatcher's operations (44_rx_dispatcher.md): MISS, the part of CLASSIFY that all four
kinds share, and the arms of DATA and END. The four meanings themselves are in Machine/Frames.lean.
-/

namespace Sys2Proof.Machine

/-- MISS (R230) with the counter and cause code of its round result already chosen. -/
def State.miss (s : State) (cnt : Counters) (code : BitVec 3) : State :=
  State.roundEnd { s with rxMiss := s.rxMiss + 1, cnt := cnt, lastErr := code, rxr := .empty }

/-- MISS after `rx_timeout`: code 7 (R230). -/
def State.missTimeout (s : State) : State :=
  s.miss { s.cnt with rxTimeout := bump s.cnt.rxTimeout } 7#3

/-- MISS after a rejection: its cause code (R230). -/
def State.missReject (s : State) (r : Reject) : State :=
  s.miss { s.cnt with rxInvalid := bump s.cnt.rxInvalid } r.code

/-- What CLASSIFY does for every validated frame (R231). -/
def State.classified (s : State) : State :=
  { s with rxMiss := 0, cnt := { s.cnt with rxFrames := bump s.cnt.rxFrames }, rxr := .empty }

/-- CLASSIFY with its arm: enabled only while `DSP` = `D_RECV` (R231); elsewhere nothing fires (log entry 9). -/
def State.classify (s : State) (arm : State → State) : Result :=
  if s.dsp = .recv then .next (arm s.classified) else .next s

/-- The duplicate test (R234): it compares ids only. -/
def State.isDuplicate (s : State) (id : Half) : Bool := s.ls.lrValid && id == idField s.ls.lrId

/-- DUPLICATE (R235): re-acknowledge and do nothing else. -/
def State.duplicate (s : State) (id : Half) : State :=
  State.queueAck { s with cnt := { s.cnt with dup := bump s.cnt.dup } } id

/-- `LS.LR_VALID <- 1; LS.LR_ID <- id` (R236). -/
def State.record (s : State) (id : Half) : State :=
  { s with ls := { s.ls with lrValid := true, lrId := idBit id } }

/-- NEW_UNIT for DATA (R236): recorded, delivered, acknowledged. -/
def State.newData (s : State) (id : Half) (d : List Byte) : State :=
  ((s.record id).deliver d).queueAck id

/-- `LS.PEER_END <- 1` (R236). -/
def State.latchPeerEnd (s : State) : State := { s with ls := { s.ls with peerEnd := true } }

/-- NEW_UNIT for END (R236): recorded, latched, acknowledged; the payload is not delivered. -/
def State.newEnd (s : State) (id : Half) : State :=
  (s.record id).latchPeerEnd.queueAck id

/-- The arm of a new DATA unit: OVERRUN while the previous payload is undelivered (R237), else NEW_UNIT. -/
def State.newDataArm (s : State) (id : Half) (d : List Byte) : State :=
  if s.ls.newData then
    let s := { s with cnt := { s.cnt with overrun := bump s.cnt.overrun } }
    match s.cfg.overrun with
    | .holdOff => s.roundEnd
    | .overwrite => s.newData id d
  else s.newData id d

/-- The ACK arm (R233). -/
def State.ackArm (s : State) (id : Half) : State :=
  if s.ls.awaitAck = true ∧ id = idField s.ls.outId then
    State.roundEnd { s with ls := { s.ls with awaitAck := false } }
  else State.roundEnd { s with cnt := { s.cnt with ackStale := bump s.cnt.ackStale } }

end Sys2Proof.Machine
end

