-- ==== Sys2Proof/Machine/Frames.lean ====
section
/-! DEFINITION. The meanings of the four frame kinds: what the dispatcher's transition CLASSIFY (R231) does with a
validated frame.
-/

namespace Sys2Proof.Machine

/-- DATA (R234 to R237). -/
def execData (id : Half) (d : List Byte) (s : State) : Result :=
  s.classify fun s => if s.isDuplicate id then s.duplicate id else s.newDataArm id d

/-- ACK (R233). Its payload is ignored (D5). -/
def execAck (id : Half) (_d : List Byte) (s : State) : Result :=
  s.classify fun s => s.ackArm id

/-- END (R234 to R236). Its payload is discarded (D32). -/
def execEnd (id : Half) (_d : List Byte) (s : State) : Result :=
  s.classify fun s => if s.isDuplicate id then s.duplicate id else s.newEnd id

/-- RESET (R232). Its id and payload are ignored. -/
def execReset (_id : Half) (_d : List Byte) (s : State) : Result :=
  s.classify fun s => s.raiseFatal .peerReset

end Sys2Proof.Machine
end

