-- ==== Sys2Proof/Machine/Dispatch.lean ====
section
/-! DEFINITION. One arm per constructor of Instr. -/

namespace Sys2Proof.Machine

/-- The meaning of a decoded frame or command. -/
def exec (i : Instr) (s : State) : Host.Outcome State Fault Refusal :=
  match i with
  | .dataFrame id d => Sys2Proof.Machine.execData id d s
  | .ackFrame id d => Sys2Proof.Machine.execAck id d s
  | .endFrame id d => Sys2Proof.Machine.execEnd id d s
  | .resetFrame id d => Sys2Proof.Machine.execReset id d s
  | .nop => Sys2Proof.Machine.execNop s
  | .send final nl => Sys2Proof.Machine.execSend final nl s
  | .dack => Sys2Proof.Machine.execDack s
  | .startRx => Sys2Proof.Machine.execStartRx s

end Sys2Proof.Machine
end

