-- ==== Sys2Proof/Machine/Bus.lean ====
section
/-! DEFINITION. Host bus accesses (45_host_commands.md sections 1 and 3) and the fetch of a command: what a
transition asks of the machine, an instruction to run or an outcome.
-/

namespace Sys2Proof.Machine

/-- What a transition comes to: an instruction to execute, or its outcome at once. -/
inductive Fetched where
  | run (i : Instr)
  | done (r : Result)

/-- The value a register or buffer read returns (R268, R270); `none` where the access is refused (R261). -/
def State.readTarget (s : State) : Target → Option Word
  | .misaligned => none
  | .unmapped => none
  | .cmd => some 0
  | .status => some s.statusWord
  | .link => some s.linkWord
  | .txLen => some (s.txLen.setWidth 32)
  | .rxLen => some (s.ls.rxLen.setWidth 32)
  | .irqEn => some (s.irqEn.setWidth 32)
  | .lastErr => some (s.lastErr.setWidth 32)
  | .cfg => some (cfgWord s.cfg)
  | .counter c => some (s.cnt.get c)
  | .txBuf i => some ((s.byteOf (txBufAddr i)).setWidth 32)
  | .rxBuf i => some ((s.byteOf (rxBufAddr i)).setWidth 32)

/-- `bus_read(a)`: the data port takes the value read and nothing else changes (R83, R268); a refused read returns 0
and sets `BUS_ERR` (R261). -/
def State.busRead (s : State) (a : HostAddr) : State :=
  match s.readTarget (target s.cfg a) with
  | some v => { s with busRdata := v }
  | none => { s.busRefuse with busRdata := 0 }

/-- The W1C write to `STATUS` (R266). -/
def State.clearStatus (s : State) (v : Word) : State :=
  { s with
    txDone := s.txDone && !v.getLsbD 1
    cmdErr := s.cmdErr && !v.getLsbD 9
    busErr := s.busErr && !v.getLsbD 10 }

/-- `TX_LEN.LEN <- v[12:0]`, refused while `TX_BUSY` = 1 (R271, R261). -/
def State.writeTxLen (s : State) (v : Word) : State :=
  if s.txBusy then s.busRefuse else { s with txLen := v.setWidth 13 }

/-- `TXBUF[i] <- v[7:0]`, refused while `TX_BUSY` = 1 (R269, R261). -/
def State.writeTxBuf (s : State) (i : Nat) (v : Word) : State :=
  if s.txBusy then s.busRefuse else { s with mem := Memory.write s.mem (txBufAddr i) (v.setWidth 8) }

/-- `bus_write(a, v)`: a legal command word is an instruction to run, an illegal one is a command error (R260); every
other write takes effect at once. Writes to read-only registers and to `RXBUF` are ignored (R83). -/
def State.busWrite (s : State) (a : HostAddr) (v : Word) : Fetched :=
  match target s.cfg a with
  | .misaligned => .done (.next s.busRefuse)
  | .unmapped => .done (.next s.busRefuse)
  | .cmd =>
    match decodeCmd v with
    | .ok i => .run i
    | .error _ => .done (.next s.commandError)
  | .status => .done (.next (s.clearStatus v))
  | .link => .done (.next s)
  | .txLen => .done (.next (s.writeTxLen v))
  | .rxLen => .done (.next s)
  | .irqEn => .done (.next { s with irqEn := v.setWidth 5 })
  | .lastErr => .done (.next s)
  | .cfg => .done (.next s)
  | .counter _ => .done (.next s)
  | .txBuf i => .done (.next (s.writeTxBuf i v))
  | .rxBuf _ => .done (.next s)

end Sys2Proof.Machine
end

