-- ==== Sys2Proof/Machine/Deserializer.lean ====
section
/-! DEFINITION. The transitions of the deserializer (42_deserializer.md). Each is the effect alone; when it is
enabled stands in Machine/Fetch.lean (R76).
-/

namespace Sys2Proof.Machine

/-- `raise Reject(code)` (R182): the round's result is the rejection. -/
def State.rejectRound (s : State) (r : Reject) : State := { s with rxr := .reject r }

/-- `validate()` on `CAND[0 .. 15+CAND_PL-1]` (R176), with `accept()` (R179) or a rejection (R182). -/
def State.validateCand (s : State) : State :=
  match validate (s.cand.take (hdrLen + s.candPl.toNat)) with
  | .error r => s.rejectRound r
  | .ok f => { s with rxr := .frame f }

/-- The window takes a byte: while it is full, the oldest byte is discarded and counted (R171). -/
def State.slideWin (s : State) (b : Byte) : State :=
  if s.winN = 8 then { s with win := (s.win.drop 1).take 7 ++ [b], huntCnt := s.huntCnt + 1 }
  else { s with win := s.win.take s.winN ++ [b], winN := s.winN + 1 }

/-- Both markers equal `SYNC` at once in the hunt window (R171, R172). -/
def State.syncMatch (s : State) : Bool :=
  s.winN == 8 && be32 s.win 0 == s.cfg.sync && be32 s.win 4 == s.cfg.sync

/-- HUNT_BYTE (R171). -/
def State.huntByte (s : State) (b : Byte) : State :=
  let s := s.armRx.slideWin b
  if s.syncMatch then { s with cand := s.win, candN := 8, des := .hdr }
  else if s.huntCnt = huntLimit s.cfg then s.rejectRound .sync
  else s

/-- `CAND[CAND_N] <- b; CAND_N <- CAND_N + 1` with the timer armed (R173, R175). -/
def State.pushCand (s : State) (b : Byte) : State :=
  { s.armRx with cand := s.cand.take s.candN ++ [b], candN := s.candN + 1 }

/-- HDR_BYTE (R173), with the length check of R174 at the 15th byte. -/
def State.hdrByte (s : State) (b : Byte) : State :=
  let s := s.pushCand b
  if s.candN = hdrLen then
    let s := { s with candPl := be16 s.cand 10 }
    if s.cfg.maxPayload < s.candPl.toNat then s.rejectRound .length
    else if s.candPl = 0 then s.validateCand
    else { s with des := .pay }
  else s

/-- PAY_BYTE (R175). -/
def State.payByte (s : State) (b : Byte) : State :=
  let s := s.pushCand b
  if s.candN = hdrLen + s.candPl.toNat then s.validateCand else s

/-- `rx_byte(b)`: HUNT_BYTE, HDR_BYTE or PAY_BYTE by `DES`. -/
def State.takeByte (s : State) (b : Byte) : State :=
  match s.des with
  | .hunt => s.huntByte b
  | .hdr => s.hdrByte b
  | .pay => s.payByte b

/-- The incoming stream delivers its first waiting byte. -/
def State.rxByte (s : State) : State :=
  match s.rxStream with
  | [] => s
  | b :: rest => State.takeByte { s with rxStream := rest } b

/-- RX_TIMEOUT (R180). -/
def State.rxTimeout (s : State) : State := { s with rxr := .timeout }

/-- RX_STREAM_ERR (R181). -/
def State.rxErr (s : State) : State := s.rejectRound .stream

end Sys2Proof.Machine
end

