-- ==== Sys2Proof/Machine/Serializer.lean ====
section
/-! DEFINITION. The transitions of the serializer (41_serializer.md section 2). A frame's end and its owner's next
step are one transition (R146, R147, D13).
-/

namespace Sys2Proof.Machine

/-- TX_GRANT (R144): the ACK goes first. -/
def State.grant (s : State) : State :=
  { s.armStall with
    txOwner := if s.ackReq then .dsp else .snd
    ackReq := false
    sndReq := if s.ackReq then s.sndReq else false
    txPos := 0
    ser := .busy }

/-- `completion(o)` of R146: R203, R208's second part, or R238. -/
def State.completion (s : State) (o : Owner) : Result :=
  match o with
  | .none => .fault .ownerMismatch
  | .snd =>
    match s.snd with
    | .send => .next s.attemptDone
    | .reset => .next (s.raiseFatal .exhausted)
    | .idle => .fault .ownerMismatch
    | .wait => .fault .ownerMismatch
    | .halt => .fault .ownerMismatch
  | .dsp => if s.dsp = .ack then .next s.roundEnd else .fault .ownerMismatch

/-- `failure(o)` of R147: R204, R208's second part, or R238. -/
def State.failure (s : State) (o : Owner) : Result :=
  match o with
  | .none => .fault .ownerMismatch
  | .snd =>
    match s.snd with
    | .send => .next s.attemptFail
    | .reset => .next (s.raiseFatal .exhausted)
    | .idle => .fault .ownerMismatch
    | .wait => .fault .ownerMismatch
    | .halt => .fault .ownerMismatch
  | .dsp => if s.dsp = .ack then .next s.roundEnd else .fault .ownerMismatch

/-- The serializer is idle again, with the counters `cnt` (the first lines of R146's end and of R147). -/
def State.endFrame (s : State) (cnt : Counters) : State :=
  { s with ser := .idle, txOwner := .none, cnt := cnt }

/-- The byte on offer goes onto the outgoing stream (R145, R146). -/
def State.sendByte (s : State) : State :=
  { s.armStall with txPos := s.txPos + 1, txStream := s.txStream ++ [s.txData] }

/-- TX_TAKE (R146): the stream accepts the byte; after the last one the frame is complete. -/
def State.txTake (s : State) : Result :=
  if s.txOwner = .none then .fault .ownerMismatch
  else if s.sendByte.txPos = s.txFrameLen then
    (s.sendByte.endFrame { s.cnt with txFrames := bump s.cnt.txFrames }).completion s.txOwner
  else .next s.sendByte

/-- TX_FAIL (R147): the frame is abandoned; bytes already taken stay on the wire. -/
def State.txFail (s : State) : Result :=
  (s.endFrame { s.cnt with txIoErr := bump s.cnt.txIoErr }).failure s.txOwner

end Sys2Proof.Machine
end

