-- ==== Sys2Proof/Machine/Fetch.lean ====
section
/-! DEFINITION. Which transition fires next and what it comes to: the choice (R71), the guards (R76, R144, R205,
R230, R231), and for the two transitions that carry an instruction, the instruction.
-/

namespace Sys2Proof.Machine

/-- The next transition, and the state with that choice taken: the agenda's oldest entry, or, where the agenda makes
no choice, a free value (R71, log entry 2). -/
def State.choose (s : State) : Event × State :=
  match s.agenda with
  | e :: rest => (e, { s with agenda := rest })
  | [] => (Config.freeEvent s.draws, { s with draws := s.draws + 1 })

/-- The guards: R76's table with the timers of R65 counted, R144 for TX_GRANT, R205 for ACKED, R230 and R231 for the
dispatcher. -/
def enabled (e : Event) (s : State) : Bool :=
  match e with
  | .arrive _ => true
  | .rxByte => s.rxReady && !s.rxStream.isEmpty
  | .rxErr => s.rxReady
  | .rxTimeout => s.rxReady && s.rxTmr == some 0
  | .txTake => s.txValid
  | .txErr => s.txValid
  | .txStall => s.txValid && s.stallTmr == some 0
  | .ackTimeout => s.snd == .wait && s.ls.awaitAck && s.ackTmr == some 0
  | .busWrite _ _ => true
  | .busRead _ => true
  | .reset => true
  | .tick => true
  | .grant => s.ser == .idle && (s.ackReq || s.sndReq) && !s.fatal
  | .acked => s.snd == .wait && !s.ls.awaitAck
  | .dispatch => s.dsp == .recv && s.rxr != .empty

/-- The dispatcher's transition by the round's result: MISS (R230), or a frame to run (R231). -/
def State.dispatch (s : State) : Fetched :=
  match s.rxr with
  | .empty => .done (.next s)
  | .timeout => .done (.next s.missTimeout)
  | .reject r => .done (.next (s.missReject r))
  | .frame f =>
    match f.toInstr with
    | some i => .run i
    | none => .done (.fault .reservedFrameInSlot)

/-- What an enabled transition comes to. -/
def fire (e : Event) (s : State) : Fetched :=
  match e with
  | .arrive b => .done (.next { s with rxStream := s.rxStream ++ [b] })
  | .rxByte => .done (.next s.rxByte)
  | .rxErr => .done (.next s.rxErr)
  | .rxTimeout => .done (.next s.rxTimeout)
  | .txTake => .done s.txTake
  | .txErr => .done s.txFail
  | .txStall => .done s.txFail
  | .ackTimeout => .done (.next s.ackTimeout)
  | .busWrite a v => s.busWrite a v
  | .busRead a => .done (.next (s.busRead a))
  | .reset => .done (.next s.hardReset)
  | .tick => .done (.next s.countTimers)
  | .grant => .done (.next s.grant)
  | .acked => .done (.next s.acked)
  | .dispatch => s.dispatch

/-- A chosen transition whose guard does not hold does not fire: only the choice is spent. -/
def fetch (e : Event) (s : State) : Fetched :=
  if enabled e s then fire e s else .done (.next s)

/-- The round result a host's frame word stands for: the frame with id 0 and no payload that has these flags, as the
deserializer's validator passes or rejects it (R177). -/
def tableFrame (w : Nat) : RoundResult :=
  if Kind.ofFlags (BitVec.ofNat 8 w) = none then .reject .flags
  else .frame { id := 0#16, flags := BitVec.ofNat 8 w, length := 0#16, payload := [] }

/-- Place a `wire_frame` row's instruction where the dispatcher takes its next frame from, and choose the dispatcher's
transition. -/
def State.placeFrame (s : State) (w : Nat) : State :=
  { s with dsp := .recv, rxr := tableFrame w, agenda := .dispatch :: s.agenda }

/-- Choose the host's write of a `cmd_word` row's word to `CMD` as the next transition. -/
def State.placeCommand (s : State) (w : Nat) : State :=
  { s with agenda := .busWrite 0x0000#16 (BitVec.ofNat 32 w) :: s.agenda }

end Sys2Proof.Machine
end

