-- ==== Sys2Proof/Machine/Step.lean ====
section
/-! DEFINITION. One step: one atomic transition (R70), chosen freely (R71). -/

namespace Sys2Proof.Machine

/-- One transition: choose it, and carry out what it comes to. -/
def step (s : State) : Host.Outcome State Fault Refusal :=
  match fetch s.choose.1 s.choose.2 with
  | .run i => exec i s.choose.2
  | .done r => r

/-- The state whose next step runs the instruction with opcode-table bits `w` (log entry 12): 8 bits are a frame's
flags byte, placed in the round-result slot; else the word is written to `CMD`. -/
def State.withFetchWord (s : State) (nbits w : Nat) : State :=
  if nbits = 8 then s.placeFrame w else s.placeCommand w

end Sys2Proof.Machine
end

