-- ==== Sys2Proof/Machine/Priority.lean ====
section
/-! DEFINITION. Events seen in one clock cycle (R307): the transition model has no coincidence, so a cycle in which
several events come together is the agenda in which they stand in R307's order.
-/

namespace Sys2Proof.Machine

/-- The transmission of the sender's RESET frame ends with this event: item 3 of R307. -/
def State.endsReset (s : State) (e : Event) : Bool :=
  s.txOwner == .snd && s.snd == .reset &&
    match e with
    | .txTake => s.txPos + 1 == s.sndLen
    | .txErr => true
    | .txStall => true
    | _ => false

/-- `RXR` holds a frame of kind `k`. -/
def State.slotHolds (s : State) (k : Kind) : Bool :=
  match s.rxr with
  | .frame f => Kind.ofFlags f.flags == some k
  | _ => false

/-- The item of R307's list an event falls under, in the state the cycle begins in. -/
def eventRank (s : State) (e : Event) : Nat :=
  match e with
  | .reset => 1
  | .dispatch => if s.slotHolds .reset then 2 else if s.slotHolds .ack then 4 else 6
  | .txTake => if s.endsReset .txTake then 3 else 6
  | .txErr => if s.endsReset .txErr then 3 else 6
  | .txStall => if s.endsReset .txStall then 3 else 6
  | .ackTimeout => 5
  | .arrive _ => 6
  | .rxByte => 6
  | .rxErr => 6
  | .rxTimeout => 6
  | .busWrite _ _ => 6
  | .busRead _ => 6
  | .tick => 6
  | .grant => 6
  | .acked => 6

/-- Insert an event before the first one of a greater item number. -/
def insertByRank (s : State) (e : Event) : List Event → List Event
  | [] => [e]
  | x :: xs => if eventRank s e ≤ eventRank s x then e :: x :: xs else x :: insertByRank s e xs

/-- R307's order of the events of one cycle; events of one item keep their order. -/
def resolveCycle (s : State) : List Event → List Event
  | [] => []
  | e :: es => insertByRank s e (resolveCycle s es)

/-- A clock cycle in which the events `es` come together. -/
def State.sameCycle (s : State) (es : List Event) : State := { s with agenda := resolveCycle s es ++ s.agenda }

end Sys2Proof.Machine
end

