-- ==== Sys2Proof/Machine/Script.lean ====
section
/-! DEFINITION. The host-script and wire notations (R110, R111, R112) as lists of events for State's agenda. They add
no behaviour: each line of a script is the events it stands for.
-/

namespace Sys2Proof.Machine.Script

/-- `addr(CMD)` (R40). -/
def cmdAddr : HostAddr := 0x0000#16

/-- `addr(STATUS)` (R41). -/
def statusAddr : HostAddr := 0x0004#16

/-- `addr(TX_LEN)` (R43). -/
def txLenAddr : HostAddr := 0x000C#16

/-- `addr(TXBUF[i])` (R80). -/
def txBufBusAddr (i : Nat) : HostAddr := BitVec.ofNat 16 (txBufAddr i)

/-- `addr(RXBUF[i])` (R80). -/
def rxBufBusAddr (i : Nat) : HostAddr := BitVec.ofNat 16 (rxBufAddr i)

/-- `WR <reg>, <value>` (R110). -/
def wr (a : HostAddr) (v : Word) : List Event := [.busWrite a v]

/-- `RD <reg>` (R110). -/
def rd (a : HostAddr) : List Event := [.busRead a]

/-- `SEND`, `SEND.FIN`, `SEND.NL`, `SEND.FIN.NL` (R110). -/
def send (final nl : Bool) : List Event := wr cmdAddr (sendWord final nl)

/-- `DACK` (R110). -/
def dack : List Event := wr cmdAddr 0x00000002#32

/-- `START_RX` (R110). -/
def startRx : List Event := wr cmdAddr 0x00000003#32

/-- `NOP` (R110). -/
def nop : List Event := wr cmdAddr 0x00000000#32

/-- The `TXBUF` writes of `LOADTX`, from index `i`. -/
def loadFrom (i : Nat) : List Byte → List Event
  | [] => []
  | b :: bs => wr (txBufBusAddr i) (b.setWidth 32) ++ loadFrom (i + 1) bs

/-- `LOADTX` (R111). -/
def loadTx (bs : List Byte) : List Event := loadFrom 0 bs ++ wr txLenAddr (BitVec.ofNat 32 bs.length)

/-- `CLR <bits>` (R111). -/
def clr (v : Word) : List Event := wr statusAddr v

/-- `SENDTEXT` (R111). -/
def sendText (bs : List Byte) : List Event := loadTx bs ++ send false true

/-- `n` polls of the loop `WAIT` expands to (R111); how often the host polls is the host's. -/
def poll (a : HostAddr) (n : Nat) : List Event := (List.replicate n (rd a)).flatten

/-- `DATA(i, p)` (R112). -/
def dataImage (p : Params) (i : Half) (d : List Byte) : List Byte := frameImage p i 0x00#8 d

/-- `END(i, p)` (R112). -/
def endImage (p : Params) (i : Half) (d : List Byte) : List Byte := frameImage p i 0x40#8 d

/-- `ACK(i)` (R112). -/
def ackImage (p : Params) (i : Half) : List Byte := frameImage p i 0x80#8 []

/-- `RESET(i)` (R112). -/
def resetImage (p : Params) (i : Half) : List Byte := frameImage p i 0x20#8 []

/-- `PEER> X` (R112): the bytes come to the stream and are delivered, one `rx_byte` a byte. -/
def peer (img : List Byte) : List Event := img.flatMap (fun b => [.arrive b, .rxByte])

/-- `WIRE< X` (R112): a frame of `n` bytes is granted and taken whole. -/
def wire (n : Nat) : List Event := .grant :: List.replicate n .txTake

/-- `T/O ack` (R112), with the cycles the timer needs. -/
def toAck (p : Params) : List Event := List.replicate p.ackTimeout .tick ++ [.ackTimeout]

/-- `T/O rx` (R112), with the cycles the timer needs. -/
def toRx (p : Params) : List Event := List.replicate p.rxTimeout .tick ++ [.rxTimeout]

end Sys2Proof.Machine.Script
end

