-- ==== Sys2Proof/Safety.lean ====
section
/-! DEFINITION. What a safe run is: the invariant of the block's registers, a step that does not stop, runs and the
fairness of rule R72, and the few specification-side functions that claims are stated with.

No definition here changes what a step does.
-/

namespace Sys2Proof.Safety

open Sys2Proof.Machine

/-! ### The invariant, unit by unit -/

/-- The buffers are canonical, and every written byte lies in one of R80's two windows. -/
structure MemInv (s : State) : Prop where
  canonical : Memory.Wf s.mem
  window : ∀ c ∈ s.mem, ∃ i, i < s.cfg.maxPayload ∧ (c.1 = txBufAddr i ∨ c.1 = rxBufAddr i)

/-- The fatal state is one state: its flag, its cause, the halted engines and the closed stream agree, and in it
nothing is queued, sent, received or timed (R50, R302, R149). -/
structure FatalInv (s : State) : Prop where
  snd_halt : s.snd = .halt ↔ s.fatal = true
  dsp_halt : s.dsp = .halt ↔ s.fatal = true
  cause : s.fatalCause ≠ .none ↔ s.fatal = true
  closed : s.streamClose = s.fatal
  quiet : s.fatal = true → s.ser = .idle ∧ s.ackReq = false ∧ s.sndReq = false ∧ s.rxr = .empty ∧
    s.ackTmr = none ∧ s.rxTmr = none ∧ s.stallTmr = none

/-- The serializer and its two clients agree on whose frame is queued or sent (R31, R32, R34, R64, R148). -/
structure SerInv (s : State) : Prop where
  owner_none : s.txOwner = .none ↔ s.ser = .idle
  owner_snd : s.txOwner = .snd → (s.snd = .send ∨ s.snd = .reset) ∧ s.sndReq = false ∧ s.txPos < s.sndLen
  owner_dsp : s.txOwner = .dsp → s.dsp = .ack ∧ s.ackReq = false ∧ s.txPos < hdrLen
  snd_req : s.sndReq = true → s.snd = .send ∨ s.snd = .reset
  ack_req : s.ackReq = true → s.dsp = .ack
  snd_served : s.snd = .send ∨ s.snd = .reset → s.sndReq = true ∨ s.txOwner = .snd
  dsp_served : s.dsp = .ack → s.ackReq = true ∨ s.txOwner = .dsp
  /-- The bytes of the frame in progress stand last on the wire, in order, with no other byte among them. -/
  wire : s.ser = .busy → (s.txImage.take s.txPos) <:+ s.txStream
  armed : s.ser = .busy → ∃ n, s.stallTmr = some n ∧ n ≤ s.cfg.txStallTimeout

/-- The unit in progress: what `SND_IMG` holds, how its attempts stand, and when an ACK is awaited (R60, R61, R201,
R203, R208, R210). -/
structure SndInv (s : State) : Prop where
  attempts_le : s.attempts.toNat ≤ s.cfg.maxAttempts
  image : s.snd = .send ∨ s.snd = .wait → ∃ d : List Byte, d.length ≤ s.cfg.maxPayload ∧
    s.sndImg = frameImage s.cfg (idField s.sndId) (unitFlags s.sndFinal) d ∧ s.sndLen = hdrLen + d.length
  id : s.snd = .send ∨ s.snd = .wait → s.sndId = s.ls.nextSendId
  send_attempts : s.snd = .send → s.attempts.toNat < s.cfg.maxAttempts
  wait_attempts : s.snd = .wait → 1 ≤ s.attempts.toNat
  wait_id : s.snd = .wait → s.ls.outId = s.sndId
  wait_armed : s.snd = .wait → ∃ n, s.ackTmr = some n ∧ n ≤ s.cfg.ackTimeout
  reset_image : s.snd = .reset → s.sndImg = frameImage s.cfg s.cfg.resetId Kind.reset.flags [] ∧ s.sndLen = hdrLen
  reset_attempts : s.snd = .reset → s.attempts.toNat = s.cfg.maxAttempts
  idle_ack : s.snd = .idle → s.ls.awaitAck = false
  busy_end : s.snd.busy = true → s.ls.localEnd = false

/-- The dispatcher: the liveness counter, its two exits, the ACK being sent and what was delivered (R62, R142, R236,
R239). -/
structure DspInv (s : State) : Prop where
  miss_le : s.rxMiss.toNat ≤ s.cfg.maxAttempts
  recv_miss : s.dsp = .recv → s.rxMiss.toNat < s.cfg.maxAttempts
  ack_miss : s.dsp = .ack → s.rxMiss.toNat = 0
  done_ends : s.dsp = .done → s.ls.peerEnd = true ∧ s.ls.localEnd = true
  expired_miss : s.dsp = .expired → s.rxMiss.toNat = s.cfg.maxAttempts
  ack_image : s.dsp = .ack → ∃ id : Half, (id = 0#16 ∨ id = 1#16) ∧
    s.ackImg = frameImage s.cfg id Kind.ack.flags []
  recorded : s.ls.newData = true ∨ s.ls.peerEnd = true → s.ls.lrValid = true
  rx_len : s.ls.rxLen.toNat ≤ s.cfg.maxPayload

/-- A frame that R176 to R179 let into `RXR`. -/
def frameOk (p : Params) (f : Frame) : Prop :=
  (∃ k, Kind.ofFlags f.flags = some k) ∧ (f.flags = 0x20#8 ∨ f.id = 0#16 ∨ f.id = 1#16) ∧
  f.payload.length = f.length.toNat ∧ f.length.toNat ≤ p.maxPayload

/-- The deserializer: a result waits only for a receiving dispatcher, and while a round collects bytes its window and
its candidate are as R63, R171, R173 and R175 leave them. -/
structure DesInv (s : State) : Prop where
  slot : s.rxr ≠ .empty → s.dsp = .recv
  slot_frame : ∀ f, s.rxr = .frame f → frameOk s.cfg f
  armed : s.dsp = .recv → ∃ n, s.rxTmr = some n ∧ n ≤ s.cfg.rxTimeout
  hunt : s.dsp = .recv → s.rxr = .empty → s.des = .hunt →
    s.winN ≤ 8 ∧ s.winN ≤ s.win.length ∧ (s.winN = 8 → s.win.length = 8) ∧ (s.winN < 8 → s.huntCnt = 0) ∧
    s.huntCnt < huntLimit s.cfg
  collect : s.dsp = .recv → s.rxr = .empty → s.des ≠ .hunt →
    s.cand.length = s.candN ∧ be32 s.cand 0 = s.cfg.sync ∧ be32 s.cand 4 = s.cfg.sync
  hdr : s.dsp = .recv → s.rxr = .empty → s.des = .hdr → 8 ≤ s.candN ∧ s.candN < hdrLen
  pay : s.dsp = .recv → s.rxr = .empty → s.des = .pay →
    hdrLen ≤ s.candN ∧ s.candN < hdrLen + s.candPl.toNat ∧ s.candPl = be16 s.cand 10 ∧
    s.candPl.toNat ≤ s.cfg.maxPayload

/-- The invariant of the whole block. -/
structure Inv (s : State) : Prop where
  cfg : s.cfg.Wf
  mem : MemInv s
  fatal : FatalInv s
  ser : SerInv s
  snd : SndInv s
  dsp : DspInv s
  des : DesInv s

/-! ### Runs -/

/-- The machine does not stop here. -/
def Goes (s : State) : Prop := ∃ t, step s = .next t

/-- An infinite run. -/
def IsRun (σ : Nat → State) : Prop := ∀ n, step (σ n) = .next (σ (n + 1))

/-- The transitions of the block and its timers, which R72 assumes fair; the host and the streams are not. -/
def fairEvents : List Event := [.rxTimeout, .txStall, .ackTimeout, .grant, .acked, .dispatch]

/-- Weak fairness (R72): a transition that stays enabled eventually fires, and the clock does not stop. A premise of
termination claims; no step enforces it (log entry 16). -/
def WeaklyFair (σ : Nat → State) : Prop :=
  (∀ e ∈ fairEvents, ∀ n, (∀ m, n ≤ m → enabled e (σ m) = true) → ∃ m, n ≤ m ∧ (σ m).choose.1 = e) ∧
  ∀ n, ∃ m, n ≤ m ∧ (σ m).choose.1 = .tick

/-! ### Functions of the specification's side -/

/-- The sum of R120's words without a bound: the unbounded addition of R126. -/
def wordSum : List Byte → Nat
  | [] => 0
  | [hi] => hi.toNat * 256
  | hi :: lo :: rest => hi.toNat * 256 + lo.toNat + wordSum rest

/-- The bytes of a sequence of 16-bit words (R121). -/
def wordBytes (ws : List Half) : List Byte := ws.flatMap bytesBe16

/-- One bit of one byte inverted: bit `m` of `img[k]` (R128, R185). -/
def flipBit (img : List Byte) (k m : Nat) : List Byte :=
  img.set k (byteAt img k ^^^ (1#8 <<< m))

/-- The second verification method of R127: every word, the stored checksum included, folds to 0xFFFF. -/
def sumsToOnes (img : List Byte) : Bool := foldSum 3 (sumWords 0 img) == 0xFFFF

/-- An image with the 16 bits `x` stored in its checksum field (R93). -/
def storeChecksum (img : List Byte) (x : Half) : List Byte :=
  (img.set 8 (x.extractLsb' 8 8)).set 9 (x.extractLsb' 0 8)

/-- The state `s` with the transition `e` chosen to fire next: its next step is the transition `e` of `s`. -/
def chosen (e : Event) (s : State) : State := { s with agenda := e :: s.agenda }

/-- The state `s` with the transitions `es` chosen to fire next, the first of them first. -/
def choosing (es : List Event) (s : State) : State := { s with agenda := es ++ s.agenda }

/-- `n` steps of the machine. -/
def runs (n : Nat) (s : State) : Result := Host.Core.run Sys2Proof.core n s

end Sys2Proof.Safety
end

