-- ==== Sys2Proof/Certificates/Slice0/Obligations.lean ====
section
/-! DEFINITION. The statements for the provers, in the order of OBLIGATIONS.json.

`chosen e s` is the state `s` with the transition `e` chosen to fire next, so `step (chosen e s)` is the transition
`e` of `s`. A next state written as a record update of `s` says that every field it does not name is unchanged, all of
memory included.
-/

open Sys2Proof Sys2Proof.Machine Sys2Proof.Safety

/-! ### Encodings -/

/-- Decoding an encoded well-formed instruction gives it back, with every operand (R91, R106, R140). -/
def Obligations.DecodeOfEncode : Prop :=
  ∀ (p : Params) (i : Instr), p.Wf → i.wf p = true → decode p (encode p i) = .ok i

/-- Each instruction has one encoding: bits that decode to it are its encoding, checksum and padding bits included
(R91, R106, R125). -/
def Obligations.EncodeOfDecode : Prop :=
  ∀ (p : Params) (c : Code) (i : Instr), decode p c = .ok i → encode p i = c

/-- Words written out from the spec's encodings (V-FR-1, V-FR-3, V-FR-5, V-RX-9, R106) decode to what they stand for. -/
def Obligations.WrittenOutWordsDecode : Prop :=
  decode Config.vectorParams (.frame [0xdc, 0xc0, 0x23, 0xc2, 0xdc, 0xc0, 0x23, 0xc2, 0x9c, 0x32, 0x00, 0x03, 0x00,
    0x00, 0x00, 0x61, 0x62, 0x63]) = .ok (.dataFrame 0 [0x61, 0x62, 0x63]) ∧
  decode Config.vectorParams (.frame [0xdc, 0xc0, 0x23, 0xc2, 0xdc, 0xc0, 0x23, 0xc2, 0x7e, 0xf9, 0x00, 0x00, 0x00,
    0x00, 0x80]) = .ok (.ackFrame 0 []) ∧
  decode Config.vectorParams (.frame [0xdc, 0xc0, 0x23, 0xc2, 0xdc, 0xc0, 0x23, 0xc2, 0xbe, 0xf9, 0x00, 0x00, 0x00,
    0x00, 0x40]) = .ok (.endFrame 0 []) ∧
  decode Config.vectorParams (.frame [0xdc, 0xc0, 0x23, 0xc2, 0xdc, 0xc0, 0x23, 0xc2, 0xde, 0xf2, 0x00, 0x00, 0x00,
    0x07, 0x20]) = .ok (.resetFrame 7 []) ∧
  decode Config.vectorParams (.cmd 0x00000000) = .ok .nop ∧
  decode Config.vectorParams (.cmd 0x00000201) = .ok (.send false true) ∧
  decode Config.vectorParams (.cmd 0x00000002) = .ok .dack ∧
  decode Config.vectorParams (.cmd 0x00000003) = .ok .startRx

/-- A reserved flags byte is rejected with `FLAGS` even when the checksum is correct, whatever the id (R101, R177). -/
def Obligations.ReservedFlagsRejected : Prop :=
  ∀ (p : Params) (id : Half) (f : Byte) (d : List Byte), p.Wf → d.length ≤ p.maxPayload →
    f ≠ 0x00 → f ≠ 0x80 → f ≠ 0x40 → f ≠ 0x20 →
    decode p (.frame (frameImage p id f d)) = .error (.reject .flags)

/-- A DATA, ACK or END frame with a reserved id is rejected with `ID`; a RESET frame is accepted with any id (R102). -/
def Obligations.ReservedIdRejected : Prop :=
  ∀ (p : Params) (id : Half) (d : List Byte), p.Wf → d.length ≤ p.maxPayload →
    (∀ f : Byte, f = 0x00 ∨ f = 0x80 ∨ f = 0x40 → 2 ≤ id.toNat →
      decode p (.frame (frameImage p id f d)) = .error (.reject .id)) ∧
    decode p (.frame (frameImage p id 0x20 d)) = .ok (.resetFrame id d)

/-! ### The checksum -/

/-- The 32-bit accumulator never wraps for a frame, even one with a length field above `MAX_PAYLOAD` (R126). The bound
is R126's 32775 words of at most 0xFFFF; the decimal that R126 prints for the product is a slip (log entry 22). -/
def Obligations.ChecksumNeverWraps : Prop :=
  ∀ buf : List Byte, buf.length ≤ 15 + 65535 →
    sumWords 0 buf = wordSum buf ∧ wordSum buf ≤ 32775 * 65535 ∧ 32775 * 65535 < 2 ^ 32

/-- The checksum is invariant under any permutation of the 16-bit words (R129). -/
def Obligations.ChecksumIgnoresWordOrder : Prop :=
  ∀ (ws vs : List Half) (tail : List Byte), ws.Perm vs → cksum (wordBytes ws ++ tail) = cksum (wordBytes vs ++ tail)

/-- With `SYNC` ≠ 0, flipping one bit of a checksum-correct frame makes the recomputed checksum differ from the stored
one, at every offset (R128). -/
def Obligations.SingleBitFlipDetected : Prop :=
  ∀ (p : Params) (id : Half) (f : Byte) (d : List Byte) (k m : Nat), p.sync ≠ 0 → d.length ≤ 65535 →
    k < 15 + d.length → m < 8 →
    be16 (flipBit (frameImage p id f d) k m) 8 ≠ cksum (zeroChecksum (flipBit (frameImage p id f d) k m))

/-- The second verification method accepts the stored values congruent to the checksum modulo 0xFFFF; CKVER accepts
the checksum alone (R127, for a `SYNC` ≠ 0). -/
def Obligations.SumMethodAcceptsMore : Prop :=
  ∀ (p : Params) (id : Half) (f : Byte) (d : List Byte) (x : Half), p.sync ≠ 0 → d.length ≤ 65535 →
    (sumsToOnes (storeChecksum (frameImage p id f d) x) = true ↔
      x.toNat % 0xFFFF = (cksum (zeroChecksum (frameImage p id f d))).toNat % 0xFFFF) ∧
    (ckver (storeChecksum (frameImage p id f d) x) = true ↔ x = cksum (zeroChecksum (frameImage p id f d)))

/-! ### Host accesses -/

/-- A read of `STATUS` returns R41's fields in R41's places and changes nothing but the data port. -/
def Obligations.StatusRead : Prop :=
  ∀ s : State, ∃ w : Word, step (chosen (.busRead 0x0004) s) = .next { s with busRdata := w } ∧
    w.getLsbD 0 = (s.snd == .send || s.snd == .wait || s.snd == .reset) ∧
    w.getLsbD 1 = s.txDone ∧ w.getLsbD 2 = s.txOk ∧
    w.getLsbD 3 = (s.dsp == .recv || s.dsp == .ack) ∧ w.getLsbD 4 = (s.dsp == .done) ∧
    w.getLsbD 5 = (s.dsp == .expired) ∧ w.getLsbD 6 = s.fatal ∧
    (w.extractLsb' 7 2).toNat = (match s.fatalCause with | .none => 0 | .peerReset => 1 | .exhausted => 2) ∧
    w.getLsbD 9 = s.cmdErr ∧ w.getLsbD 10 = s.busErr ∧ w.extractLsb' 11 21 = 0

/-- A read of `LINK` returns R42's fields in R42's places and changes nothing but the data port. -/
def Obligations.LinkRead : Prop :=
  ∀ s : State, ∃ w : Word, step (chosen (.busRead 0x0008) s) = .next { s with busRdata := w } ∧
    w.extractLsb' 0 1 = s.ls.nextSendId ∧ w.getLsbD 1 = s.ls.awaitAck ∧ w.extractLsb' 2 1 = s.ls.outId ∧
    w.getLsbD 3 = s.ls.lrValid ∧ w.extractLsb' 4 1 = s.ls.lrId ∧ w.getLsbD 5 = s.ls.newData ∧
    w.getLsbD 6 = s.ls.peerEnd ∧ w.getLsbD 7 = s.ls.localEnd ∧ w.extractLsb' 8 5 = s.attempts ∧
    w.extractLsb' 13 3 = 0 ∧ w.extractLsb' 16 5 = s.rxMiss ∧
    (w.extractLsb' 21 3).toNat =
      (match s.snd with | .idle => 0 | .send => 1 | .wait => 2 | .reset => 3 | .halt => 4) ∧
    (w.extractLsb' 24 3).toNat =
      (match s.dsp with | .off => 0 | .recv => 1 | .ack => 2 | .done => 3 | .expired => 4 | .halt => 5) ∧
    w.extractLsb' 27 5 = 0

/-- Reads of the other registers (R40, R43 to R48, R268): `CMD` reads 0, reserved bits read 0, and nothing but the
data port changes. -/
def Obligations.RegisterReads : Prop :=
  ∀ s : State,
    step (chosen (.busRead 0x0000) s) = .next { s with busRdata := 0 } ∧
    step (chosen (.busRead 0x000C) s) = .next { s with busRdata := s.txLen.setWidth 32 } ∧
    step (chosen (.busRead 0x0010) s) = .next { s with busRdata := s.ls.rxLen.setWidth 32 } ∧
    step (chosen (.busRead 0x0014) s) = .next { s with busRdata := s.irqEn.setWidth 32 } ∧
    step (chosen (.busRead 0x0018) s) = .next { s with busRdata := s.lastErr.setWidth 32 } ∧
    (s.cfg.Wf → step (chosen (.busRead 0x001C) s) =
      .next { s with busRdata := BitVec.ofNat 32 (s.cfg.maxPayload + s.cfg.maxAttempts * 2 ^ 16) }) ∧
    step (chosen (.busRead 0x0020) s) = .next { s with busRdata := s.cnt.rxFrames } ∧
    step (chosen (.busRead 0x0024) s) = .next { s with busRdata := s.cnt.rxTimeout } ∧
    step (chosen (.busRead 0x0028) s) = .next { s with busRdata := s.cnt.rxInvalid } ∧
    step (chosen (.busRead 0x002C) s) = .next { s with busRdata := s.cnt.txFrames } ∧
    step (chosen (.busRead 0x0030) s) = .next { s with busRdata := s.cnt.retx } ∧
    step (chosen (.busRead 0x0034) s) = .next { s with busRdata := s.cnt.dup } ∧
    step (chosen (.busRead 0x0038) s) = .next { s with busRdata := s.cnt.ackStale } ∧
    step (chosen (.busRead 0x003C) s) = .next { s with busRdata := s.cnt.overrun } ∧
    step (chosen (.busRead 0x0040) s) = .next { s with busRdata := s.cnt.txIoErr }

/-- A read of `RXBUF[i]` or `TXBUF[i]` returns the byte zero-extended and changes nothing but the data port (R270,
R80). -/
def Obligations.BufferReads : Prop :=
  ∀ (s : State) (i : Nat), s.cfg.Wf → i < s.cfg.maxPayload →
    step (chosen (.busRead (BitVec.ofNat 16 (0x8000 + 4 * i))) s) =
      .next { s with busRdata := (s.byteOf (rxBufAddr i)).setWidth 32 } ∧
    step (chosen (.busRead (BitVec.ofNat 16 (0x4000 + 4 * i))) s) =
      .next { s with busRdata := (s.byteOf (txBufAddr i)).setWidth 32 }

/-- A write of `TXBUF[i]` while no unit is in progress stores `v[7:0]` there, and every other byte of memory and every
other register is unchanged; a read then returns it (R269, R80, R83). -/
def Obligations.TxBufWrite : Prop :=
  ∀ (s : State) (i : Nat) (v : Word), s.cfg.Wf → i < s.cfg.maxPayload → s.snd.busy = false →
    ∃ m : Memory, step (chosen (.busWrite (BitVec.ofNat 16 (0x4000 + 4 * i)) v) s) = .next { s with mem := m } ∧
      ({ s with mem := m } : State).byteOf (txBufAddr i) = v.extractLsb' 0 8 ∧
      ∀ a : Nat, a ≠ txBufAddr i → ({ s with mem := m } : State).byteOf a = s.byteOf a

/-- A misaligned or unmapped access, and a write to `TX_LEN` or `TXBUF` while a unit is in progress, sets `BUS_ERR` and
changes nothing else; a refused read returns 0 (R261, with R80's map). -/
def Obligations.RefusedAccess : Prop :=
  ∀ (s : State) (a : HostAddr) (v : Word), s.cfg.Wf →
    ((a.toNat % 4 ≠ 0 ∨ (0x0044 ≤ a.toNat ∧ a.toNat < 0x4000) ∨
        (0x4000 + 4 * s.cfg.maxPayload ≤ a.toNat ∧ a.toNat < 0x8000) ∨
        (0x8000 + 4 * s.cfg.maxPayload ≤ a.toNat ∧ a.toNat < 0xC000) ∨ 0xC000 ≤ a.toNat) →
      step (chosen (.busWrite a v) s) = .next { s with busErr := true } ∧
      step (chosen (.busRead a) s) = .next { s with busErr := true, busRdata := 0 }) ∧
    (s.snd.busy = true → step (chosen (.busWrite 0x000C v) s) = .next { s with busErr := true }) ∧
    (∀ i, i < s.cfg.maxPayload → s.snd.busy = true →
      step (chosen (.busWrite (BitVec.ofNat 16 (0x4000 + 4 * i)) v) s) = .next { s with busErr := true })

/-- The W1C write to `STATUS`: bits 1, 9 and 10 of `v` clear `TX_DONE`, `CMD_ERR` and `BUS_ERR`; every other bit of `v`
is ignored (R266). -/
def Obligations.StatusWriteClears : Prop :=
  ∀ (s : State) (v : Word), step (chosen (.busWrite 0x0004 v) s) =
    .next { s with
      txDone := if v.getLsbD 1 then false else s.txDone
      cmdErr := if v.getLsbD 9 then false else s.cmdErr
      busErr := if v.getLsbD 10 then false else s.busErr }

/-- Writes to read-only registers and to `RXBUF` change nothing and raise no error (R83, R39). -/
def Obligations.ReadOnlyWritesIgnored : Prop :=
  ∀ (s : State) (v : Word), s.cfg.Wf →
    (∀ a : HostAddr, a = 0x0008 ∨ a = 0x0010 ∨ a = 0x0018 ∨ a = 0x001C ∨
      (0x0020 ≤ a.toNat ∧ a.toNat ≤ 0x0040 ∧ a.toNat % 4 = 0) → step (chosen (.busWrite a v) s) = .next s) ∧
    (∀ i, i < s.cfg.maxPayload → step (chosen (.busWrite (BitVec.ofNat 16 (0x8000 + 4 * i)) v) s) = .next s)

/-- `TX_LEN.LEN <- v[12:0]` while no unit is in progress, `BUS_ERR` alone while one is; `IRQ_EN <- v[4:0]` at any time
(R271). -/
def Obligations.TxLenAndIrqEnWrites : Prop :=
  ∀ (s : State) (v : Word),
    (s.snd.busy = false → step (chosen (.busWrite 0x000C v) s) = .next { s with txLen := v.extractLsb' 0 13 }) ∧
    (s.snd.busy = true → step (chosen (.busWrite 0x000C v) s) = .next { s with busErr := true }) ∧
    step (chosen (.busWrite 0x0014 v) s) = .next { s with irqEn := v.extractLsb' 0 5 }

/-- An illegal command word does nothing except set `CMD_ERR` (R107, R260). -/
def Obligations.IllegalCommandWord : Prop :=
  ∀ (s : State) (v : Word),
    4 ≤ (v.extractLsb' 0 8).toNat ∨ v.extractLsb' 10 22 ≠ 0 ∨ (v.extractLsb' 0 8 ≠ 1 ∧ v.extractLsb' 8 2 ≠ 0) →
    step (chosen (.busWrite 0x0000 v) s) = .next { s with cmdErr := true }

/-- The interrupt line is R310's formula (log entry 23: not its prose on clearing), and neither a refused command nor a
refused access moves it (R304). -/
def Obligations.InterruptLine : Prop :=
  ∀ s : State,
    (s.irq = true ↔
      (s.irqEn.getLsbD 0 = true ∧ s.txDone = true) ∨ (s.irqEn.getLsbD 1 = true ∧ s.ls.newData = true) ∨
      (s.irqEn.getLsbD 2 = true ∧ s.ls.peerEnd = true) ∨
      (s.irqEn.getLsbD 3 = true ∧ (s.dsp = .done ∨ s.dsp = .expired)) ∨
      (s.irqEn.getLsbD 4 = true ∧ s.fatal = true)) ∧
    s.commandError.irq = s.irq ∧ s.busRefuse.irq = s.irq

/-! ### Commands -/

/-- NOP changes nothing, in every state (R267). -/
def Obligations.NopHasNoEffect : Prop :=
  ∀ s : State, exec .nop s = .next s

/-- An accepted SEND builds the unit's image once, from `TXBUF`, `FINAL`, `NL` and `NEXT_SEND_ID`, and queues the first
attempt; nothing else changes (R200, R141). -/
def Obligations.SendAccepted : Prop :=
  ∀ (s : State) (final nl : Bool), s.fatal = false → s.snd = .idle → s.ls.localEnd = false →
    s.txLen.toNat + nl.toNat ≤ s.cfg.maxPayload →
    ∃ d : List Byte,
      d = (List.range s.txLen.toNat).map (fun i => s.byteOf (0x4000 + 4 * i)) ++ (if nl then [0x0A] else []) ∧
      exec (.send final nl) s = .next { s with
        sndId := s.ls.nextSendId
        sndFinal := final
        sndImg := frameImage s.cfg (s.ls.nextSendId.setWidth 16) (if final then 0x40 else 0x00) d
        sndLen := 15 + d.length
        attempts := 0
        sndReq := true
        snd := .send }

/-- SEND is a command error in the fatal state, while a unit is in progress, after `LOCAL_END`, and when the payload
with its sentinel exceeds `MAX_PAYLOAD` (R264, R262, R212). -/
def Obligations.SendRefused : Prop :=
  ∀ (s : State) (final nl : Bool),
    s.fatal = true ∨ s.snd ≠ .idle ∨ s.ls.localEnd = true ∨ s.cfg.maxPayload < s.txLen.toNat + nl.toNat →
    exec (.send final nl) s = .next { s with cmdErr := true }

/-- DACK clears `NEW_DATA` and nothing else; in the fatal state it is a command error (R263). -/
def Obligations.DackReleases : Prop :=
  ∀ s : State,
    (s.fatal = false → exec .dack s = .next { s with ls := { s.ls with newData := false } }) ∧
    (s.fatal = true → exec .dack s = .next { s with cmdErr := true })

/-- START_RX starts the dispatcher and a fresh round, once; elsewhere it is a command error; until then no incoming byte
is taken (R265, R170). That an `rx_byte` chosen then only spends its choice is the model's choice (log entry 2). -/
def Obligations.StartRxStarts : Prop :=
  ∀ s : State,
    (s.fatal = false → s.dsp = .off → exec .startRx s = .next { s with
      rxMiss := 0, dsp := .recv, des := .hunt, winN := 0, huntCnt := 0, candN := 0, candPl := 0, rxr := .empty,
      rxTmr := some s.cfg.rxTimeout }) ∧
    (s.fatal = true ∨ s.dsp ≠ .off → exec .startRx s = .next { s with cmdErr := true }) ∧
    (s.dsp = .off → s.rxReady = false ∧ step (chosen .rxByte s) = .next s)

/-! ### Received frames -/

/-- A new unit is recorded and acknowledged. DATA: its payload is in `RXBUF[0..L-1]`, every other byte of memory is
unchanged, and `NEW_DATA` is set. END: `PEER_END` is latched and no byte of memory changes (R236, R243). That an id of
2 or more, which no decoded DATA or END frame has, is recorded by its lowest bit is the model's choice (log entry 20). -/
def Obligations.NewUnitAccepted : Prop :=
  ∀ (s : State) (id : Half) (d : List Byte), s.dsp = .recv → ¬(s.ls.lrValid = true ∧ id = s.ls.lrId.setWidth 16) →
    (s.ls.newData = false → ∃ m : Memory,
      exec (.dataFrame id d) s = .next { s with
        rxMiss := 0
        cnt := { s.cnt with rxFrames := s.cnt.rxFrames + 1 }
        rxr := .empty
        ls := { s.ls with
          lrValid := true, lrId := id.setWidth 1, rxLen := BitVec.ofNat 13 d.length, newData := true }
        mem := m
        ackImg := frameImage s.cfg id 0x80 []
        ackReq := true
        dsp := .ack } ∧
      (∀ (j : Nat) (h : j < d.length), ({ s with mem := m } : State).byteOf (rxBufAddr j) = d[j]) ∧
      (∀ a : Nat, (∀ j, j < d.length → a ≠ rxBufAddr j) → ({ s with mem := m } : State).byteOf a = s.byteOf a)) ∧
    exec (.endFrame id d) s = .next { s with
      rxMiss := 0
      cnt := { s.cnt with rxFrames := s.cnt.rxFrames + 1 }
      rxr := .empty
      ls := { s.ls with lrValid := true, lrId := id.setWidth 1, peerEnd := true }
      ackImg := frameImage s.cfg id 0x80 []
      ackReq := true
      dsp := .ack }

/-- A duplicate DATA or END frame is re-acknowledged and does nothing else: no Link State field and no byte of memory
changes (R235, R241). -/
def Obligations.DuplicateReacknowledged : Prop :=
  ∀ (s : State) (id : Half) (d : List Byte) (i : Instr), i = .dataFrame id d ∨ i = .endFrame id d →
    s.dsp = .recv → s.ls.lrValid = true → id = s.ls.lrId.setWidth 16 →
    exec i s = .next { s with
      rxMiss := 0
      cnt := { s.cnt with rxFrames := s.cnt.rxFrames + 1, dup := s.cnt.dup + 1 }
      rxr := .empty
      ackImg := frameImage s.cfg id 0x80 []
      ackReq := true
      dsp := .ack }

/-- A new DATA unit while `NEW_DATA` = 1 is counted; `HOLD_OFF` then ends the round with no Link State change and no
ACK, `OVERWRITE` accepts it over the undelivered payload (R237). That an id of 2 or more, which no decoded DATA frame
has, is recorded by its lowest bit is the model's choice (log entry 20). -/
def Obligations.OverrunPolicyApplies : Prop :=
  ∀ (s : State) (id : Half) (d : List Byte), s.dsp = .recv → s.ls.newData = true →
    ¬(s.ls.lrValid = true ∧ id = s.ls.lrId.setWidth 16) →
    (s.cfg.overrun = .holdOff →
      exec (.dataFrame id d) s = .next (State.roundEnd { s with
        rxMiss := 0
        cnt := { s.cnt with rxFrames := s.cnt.rxFrames + 1, overrun := s.cnt.overrun + 1 }
        rxr := .empty })) ∧
    (s.cfg.overrun = .overwrite → ∃ m : Memory,
      exec (.dataFrame id d) s = .next { s with
        rxMiss := 0
        cnt := { s.cnt with rxFrames := s.cnt.rxFrames + 1, overrun := s.cnt.overrun + 1 }
        rxr := .empty
        ls := { s.ls with lrValid := true, lrId := id.setWidth 1, rxLen := BitVec.ofNat 13 d.length }
        mem := m
        ackImg := frameImage s.cfg id 0x80 []
        ackReq := true
        dsp := .ack } ∧
      (∀ (j : Nat) (h : j < d.length), ({ s with mem := m } : State).byteOf (rxBufAddr j) = d[j]) ∧
      (∀ a : Nat, (∀ j, j < d.length → a ≠ rxBufAddr j) → ({ s with mem := m } : State).byteOf a = s.byteOf a))

/-- An ACK that matches the awaited id clears `AWAIT_ACK`; any other is counted as stale; the round ends either way,
and no ACK answers it (R233). -/
def Obligations.AckMatchedOrStale : Prop :=
  ∀ (s : State) (id : Half) (d : List Byte), s.dsp = .recv →
    (s.ls.awaitAck = true ∧ id = s.ls.outId.setWidth 16 →
      exec (.ackFrame id d) s = .next (State.roundEnd { s with
        rxMiss := 0
        cnt := { s.cnt with rxFrames := s.cnt.rxFrames + 1 }
        rxr := .empty
        ls := { s.ls with awaitAck := false } })) ∧
    (¬(s.ls.awaitAck = true ∧ id = s.ls.outId.setWidth 16) →
      exec (.ackFrame id d) s = .next (State.roundEnd { s with
        rxMiss := 0
        cnt := { s.cnt with rxFrames := s.cnt.rxFrames + 1, ackStale := s.cnt.ackStale + 1 }
        rxr := .empty }))

/-- A received RESET enters the fatal state with cause `PEER_RESET`, whatever its id and payload: a unit in progress is
reported failed, every engine halts, the serializer aborts, the timers are disarmed, the stream is closed, and the Link
State and memory keep their values (R232, R302, R149). -/
def Obligations.ResetFrameIsFatal : Prop :=
  ∀ (s : State) (id : Half) (d : List Byte), s.dsp = .recv →
    exec (.resetFrame id d) s = .next { s with
      rxMiss := 0
      cnt := { s.cnt with rxFrames := s.cnt.rxFrames + 1 }
      fatal := true
      fatalCause := .peerReset
      txDone := if s.snd = .send ∨ s.snd = .wait ∨ s.snd = .reset then true else s.txDone
      txOk := if s.snd = .send ∨ s.snd = .wait ∨ s.snd = .reset then false else s.txOk
      snd := .halt
      dsp := .halt
      ser := .idle
      txOwner := .none
      ackReq := false
      sndReq := false
      rxr := .empty
      des := .hunt
      ackTmr := none
      rxTmr := none
      stallTmr := none
      streamClose := true }

/-! ### The engines' transitions -/

/-- `round_end()` (R239) with ROUND_START (R170): `D_DONE` when both ends are latched, else `D_EXPIRED` at the liveness
bound, else another round that starts with an empty window. -/
def Obligations.RoundEnd : Prop :=
  ∀ s : State,
    (s.ls.peerEnd = true ∧ s.ls.localEnd = true → s.roundEnd = { s with dsp := .done }) ∧
    (¬(s.ls.peerEnd = true ∧ s.ls.localEnd = true) → s.rxMiss.toNat = s.cfg.maxAttempts →
      s.roundEnd = { s with dsp := .expired }) ∧
    (¬(s.ls.peerEnd = true ∧ s.ls.localEnd = true) → s.rxMiss.toNat ≠ s.cfg.maxAttempts →
      s.roundEnd = { s with
        dsp := .recv, des := .hunt, winN := 0, huntCnt := 0, candN := 0, candPl := 0, rxr := .empty,
        rxTmr := some s.cfg.rxTimeout })

/-- MISS (R230): a timeout has code 7 and its own counter, every rejection its cause code (R300) and the other
counter; both raise `RX_MISS` and end the round. -/
def Obligations.MissedRound : Prop :=
  ∀ s : State, s.dsp = .recv →
    (s.rxr = .timeout → step (chosen .dispatch s) = .next (State.roundEnd { s with
      rxMiss := s.rxMiss + 1
      cnt := { s.cnt with rxTimeout := s.cnt.rxTimeout + 1 }
      lastErr := 7
      rxr := .empty })) ∧
    (∀ r : Reject, s.rxr = .reject r → step (chosen .dispatch s) = .next (State.roundEnd { s with
      rxMiss := s.rxMiss + 1
      cnt := { s.cnt with rxInvalid := s.cnt.rxInvalid + 1 }
      lastErr := (match r with
        | .sync => 1 | .length => 2 | .checksum => 3 | .flags => 4 | .id => 5 | .stream => 6)
      rxr := .empty }))

/-- TX_GRANT (R144): with both requests pending the ACK goes first and the sender's request stays; while a frame is
being sent, with no request, or in the fatal state, nothing is granted; that a grant chosen then only spends its choice
is the model's choice (log entry 2). -/
def Obligations.GrantPrefersAck : Prop :=
  ∀ s : State,
    (s.ser = .idle → s.fatal = false → s.ackReq = true → step (chosen .grant s) = .next { s with
      txOwner := .dsp, ackReq := false, txPos := 0, ser := .busy, stallTmr := some s.cfg.txStallTimeout }) ∧
    (s.ser = .idle → s.fatal = false → s.ackReq = false → s.sndReq = true → step (chosen .grant s) = .next { s with
      txOwner := .snd, sndReq := false, txPos := 0, ser := .busy, stallTmr := some s.cfg.txStallTimeout }) ∧
    (s.ser = .busy ∨ (s.ackReq = false ∧ s.sndReq = false) ∨ s.fatal = true → step (chosen .grant s) = .next s)

/-- TX_TAKE before the last byte (R145, R146): the byte `IMG[TX_POS]` of the owner's image goes onto the wire, and
nothing but the position and the stall timer moves. -/
def Obligations.ByteTaken : Prop :=
  ∀ (s : State) (img : List Byte) (n : Nat) (b : Byte), s.ser = .busy →
    (s.txOwner = .snd ∧ img = s.sndImg ∧ n = s.sndLen) ∨ (s.txOwner = .dsp ∧ img = s.ackImg ∧ n = 15) →
    s.txPos + 1 < n → img[s.txPos]? = some b →
    step (chosen .txTake s) = .next { s with
      txPos := s.txPos + 1, txStream := s.txStream ++ [b], stallTmr := some s.cfg.txStallTimeout }

/-- ATTEMPT_DONE (R203 in R146's transition): the sender's last byte is taken, the attempt counts, and the sender waits
for the ACK of its id, all in one transition. -/
def Obligations.AttemptCompletes : Prop :=
  ∀ (s : State) (b : Byte), s.ser = .busy → s.txOwner = .snd → s.snd = .send → s.txPos + 1 = s.sndLen →
    s.sndImg[s.txPos]? = some b →
    step (chosen .txTake s) = .next { s with
      txPos := s.txPos + 1
      txStream := s.txStream ++ [b]
      stallTmr := some s.cfg.txStallTimeout
      ser := .idle
      txOwner := .none
      cnt := { s.cnt with txFrames := s.cnt.txFrames + 1 }
      attempts := s.attempts + 1
      ls := { s.ls with awaitAck := true, outId := s.sndId }
      ackTmr := some s.cfg.ackTimeout
      snd := .wait }

/-- ATTEMPT_FAIL (R204 in R147's transition), on `tx_err` and on `tx_stall`: the attempt counts, and the next one is
queued at once, or after the last one the RESET image (R143, R208). -/
def Obligations.AttemptFails : Prop :=
  ∀ (s : State) (e : Event), (e = .txErr ∨ (e = .txStall ∧ s.stallTmr = some 0)) →
    s.ser = .busy → s.txOwner = .snd → s.snd = .send →
    ((s.attempts + 1).toNat ≠ s.cfg.maxAttempts → step (chosen e s) = .next { s with
      ser := .idle
      txOwner := .none
      cnt := { s.cnt with txIoErr := s.cnt.txIoErr + 1, retx := s.cnt.retx + 1 }
      attempts := s.attempts + 1
      sndReq := true }) ∧
    ((s.attempts + 1).toNat = s.cfg.maxAttempts → step (chosen e s) = .next { s with
      ser := .idle
      txOwner := .none
      cnt := { s.cnt with txIoErr := s.cnt.txIoErr + 1 }
      attempts := s.attempts + 1
      sndImg := frameImage s.cfg s.cfg.resetId 0x20 []
      sndLen := 15
      sndReq := true
      snd := .reset })

/-- The RESET frame's end, taken whole or failed, enters the fatal state with cause `EXHAUSTED`, and the unit is
reported failed (R208's second part, R302). -/
def Obligations.ResetSentIsFatal : Prop :=
  ∀ (s : State) (e : Event), s.ser = .busy → s.txOwner = .snd → s.snd = .reset →
    (e = .txTake ∧ s.txPos + 1 = s.sndLen) ∨ e = .txErr ∨ (e = .txStall ∧ s.stallTmr = some 0) →
    ∃ t, step (chosen e s) = .next t ∧ t.fatal = true ∧ t.fatalCause = .exhausted ∧ t.txDone = true ∧
      t.txOk = false ∧ t.snd = .halt ∧ t.dsp = .halt ∧ t.ser = .idle ∧ t.txOwner = .none ∧ t.ackReq = false ∧
      t.sndReq = false ∧ t.rxr = .empty ∧ t.des = .hunt ∧ t.ackTmr = none ∧ t.rxTmr = none ∧ t.stallTmr = none ∧
      t.streamClose = true ∧ t.ls = s.ls ∧ t.attempts = s.attempts ∧
      t.cnt = (if e = .txTake then { s.cnt with txFrames := s.cnt.txFrames + 1 }
        else { s.cnt with txIoErr := s.cnt.txIoErr + 1 }) ∧
      ∀ a : Nat, t.byteOf a = s.byteOf a

/-- ACK_SENT (R238): whether the ACK frame completes or fails, the round ends in the same transition, with no retry. -/
def Obligations.AckSentEndsRound : Prop :=
  ∀ (s : State) (b : Byte), s.ser = .busy → s.txOwner = .dsp → s.dsp = .ack →
    (s.txPos + 1 = 15 → s.ackImg[s.txPos]? = some b → step (chosen .txTake s) = .next (State.roundEnd { s with
      txPos := s.txPos + 1
      txStream := s.txStream ++ [b]
      stallTmr := some s.cfg.txStallTimeout
      ser := .idle
      txOwner := .none
      cnt := { s.cnt with txFrames := s.cnt.txFrames + 1 } })) ∧
    (∀ e : Event, e = .txErr ∨ (e = .txStall ∧ s.stallTmr = some 0) →
      step (chosen e s) = .next (State.roundEnd { s with
        ser := .idle
        txOwner := .none
        cnt := { s.cnt with txIoErr := s.cnt.txIoErr + 1 } }))

/-- ACKED (R205): the id flips, a final unit latches `LOCAL_END`, and the unit is reported acknowledged. -/
def Obligations.AckedUnitSucceeds : Prop :=
  ∀ s : State, s.snd = .wait → s.ls.awaitAck = false →
    step (chosen .acked s) = .next { s with
      ls := { s.ls with
        nextSendId := s.ls.nextSendId ^^^ 1
        localEnd := if s.sndFinal then true else s.ls.localEnd }
      ackTmr := none
      txDone := true
      txOk := true
      snd := .idle }

/-- ACK_TIMEOUT (R206): the same image is queued again, or after the last attempt the RESET image (R208). -/
def Obligations.AckTimeoutRetransmits : Prop :=
  ∀ s : State, s.snd = .wait → s.ls.awaitAck = true → s.ackTmr = some 0 →
    (s.attempts.toNat ≠ s.cfg.maxAttempts → step (chosen .ackTimeout s) = .next { s with
      sndReq := true, cnt := { s.cnt with retx := s.cnt.retx + 1 }, snd := .send }) ∧
    (s.attempts.toNat = s.cfg.maxAttempts → step (chosen .ackTimeout s) = .next { s with
      sndImg := frameImage s.cfg s.cfg.resetId 0x20 [], sndLen := 15, sndReq := true, snd := .reset })

/-- HUNT_BYTE (R171, R172): a full window `w` drops its oldest byte, which counts; both markers start a candidate, else
the `HUNT_LIMIT`-th discarded byte rejects the round, else the hunt goes on. -/
def Obligations.HuntByte : Prop :=
  ∀ (s : State) (b : Byte) (rest w : List Byte) (n c : Nat), s.dsp = .recv → s.rxr = .empty → s.des = .hunt →
    s.rxStream = b :: rest →
    (s.winN = 8 ∧ s.win.length = 8 ∧ w = s.win.tail ++ [b] ∧ n = 8 ∧ c = s.huntCnt + 1) ∨
    (s.winN < 8 ∧ s.winN ≤ s.win.length ∧ w = s.win.take s.winN ++ [b] ∧ n = s.winN + 1 ∧ c = s.huntCnt) →
    (n = 8 ∧ be32 w 0 = s.cfg.sync ∧ be32 w 4 = s.cfg.sync → step (chosen .rxByte s) = .next { s with
      rxStream := rest, rxTmr := some s.cfg.rxTimeout, win := w, winN := n, huntCnt := c,
      cand := w, candN := 8, des := .hdr }) ∧
    (¬(n = 8 ∧ be32 w 0 = s.cfg.sync ∧ be32 w 4 = s.cfg.sync) → c = 15 + s.cfg.maxPayload →
      step (chosen .rxByte s) = .next { s with
        rxStream := rest, rxTmr := some s.cfg.rxTimeout, win := w, winN := n, huntCnt := c, rxr := .reject .sync }) ∧
    (¬(n = 8 ∧ be32 w 0 = s.cfg.sync ∧ be32 w 4 = s.cfg.sync) → c ≠ 15 + s.cfg.maxPayload →
      step (chosen .rxByte s) = .next { s with
        rxStream := rest, rxTmr := some s.cfg.rxTimeout, win := w, winN := n, huntCnt := c })

/-- HDR_BYTE (R173, R174), PAY_BYTE (R175) and `validate()` (R176 to R179) in the running machine. The byte joins the
candidate. A header's 15th byte rejects a length above `MAX_PAYLOAD` and goes on to the payload for any other length
but 0; the bytes behind it stay in the stream. The last byte of a candidate `c` gives the verdict: a stored checksum
that is not the recomputed one, then reserved flags, then a reserved id, else the frame. -/
def Obligations.HeaderAndPayloadBytes : Prop :=
  ∀ (s : State) (b : Byte) (rest c : List Byte), s.dsp = .recv → s.rxr = .empty → s.rxStream = b :: rest →
    s.candN ≤ s.cand.length → c = s.cand.take s.candN ++ [b] →
    ((s.des = .hdr ∧ s.candN < 14) ∨ (s.des = .pay ∧ s.candN + 1 ≠ 15 + s.candPl.toNat) →
      step (chosen .rxByte s) = .next { s with
        rxStream := rest, rxTmr := some s.cfg.rxTimeout, cand := c, candN := s.candN + 1 }) ∧
    (s.des = .hdr → s.candN = 14 → s.cfg.maxPayload < (be16 c 10).toNat →
      step (chosen .rxByte s) = .next { s with
        rxStream := rest, rxTmr := some s.cfg.rxTimeout, cand := c, candN := 15, candPl := be16 c 10
        rxr := .reject .length }) ∧
    (s.des = .hdr → s.candN = 14 → be16 c 10 ≠ 0 → (be16 c 10).toNat ≤ s.cfg.maxPayload →
      step (chosen .rxByte s) = .next { s with
        rxStream := rest, rxTmr := some s.cfg.rxTimeout, cand := c, candN := 15, candPl := be16 c 10, des := .pay }) ∧
    ((s.des = .hdr ∧ s.candN = 14 ∧ be16 c 10 = 0) ∨
        (s.des = .pay ∧ s.candN + 1 = 15 + s.candPl.toNat ∧ be16 c 10 = s.candPl) →
      ∃ r : RoundResult, step (chosen .rxByte s) = .next { s with
          rxStream := rest, rxTmr := some s.cfg.rxTimeout, cand := c, candN := s.candN + 1, candPl := be16 c 10
          rxr := r } ∧
        (be16 c 8 ≠ cksum (zeroChecksum c) → r = .reject .checksum) ∧
        (be16 c 8 = cksum (zeroChecksum c) → ∀ f : Byte, f = byteAt c 14 →
          (f ≠ 0x00 ∧ f ≠ 0x80 ∧ f ≠ 0x40 ∧ f ≠ 0x20 → r = .reject .flags) ∧
          (f = 0x00 ∨ f = 0x80 ∨ f = 0x40 → 2 ≤ (be16 c 12).toNat → r = .reject .id) ∧
          (f = 0x20 ∨ ((f = 0x00 ∨ f = 0x80 ∨ f = 0x40) ∧ (be16 c 12 = 0 ∨ be16 c 12 = 1)) →
            r = .frame { id := be16 c 12, flags := f, length := be16 c 10, payload := c.drop 15 })))

/-- RX_TIMEOUT and RX_STREAM_ERR end a round in every state of the deserializer and write nothing but the slot (R180,
R181); and an event whose condition in R76's table does not hold leaves the block as it is: a byte that is not taken
stays in the stream, and no byte is taken from an empty one. That such a choice is spent and nothing more is log entry
2; the timeouts fire when their counter stands at 0 (log entry 5). -/
def Obligations.EventsFireOnlyWhenEnabled : Prop :=
  ∀ s : State,
    (s.dsp = .recv → s.rxr = .empty →
      (s.rxTmr = some 0 → step (chosen .rxTimeout s) = .next { s with rxr := .timeout }) ∧
      step (chosen .rxErr s) = .next { s with rxr := .reject .stream }) ∧
    (¬(s.dsp = .recv ∧ s.rxr = .empty) → step (chosen .rxByte s) = .next s ∧ step (chosen .rxErr s) = .next s) ∧
    (s.rxStream = [] → step (chosen .rxByte s) = .next s) ∧
    (¬(s.dsp = .recv ∧ s.rxr = .empty ∧ s.rxTmr = some 0) → step (chosen .rxTimeout s) = .next s) ∧
    (s.ser ≠ .busy → step (chosen .txTake s) = .next s ∧ step (chosen .txErr s) = .next s) ∧
    (¬(s.ser = .busy ∧ s.stallTmr = some 0) → step (chosen .txStall s) = .next s) ∧
    (¬(s.snd = .wait ∧ s.ls.awaitAck = true ∧ s.ackTmr = some 0) → step (chosen .ackTimeout s) = .next s)

/-- `n` clock cycles lower each armed timer by `n`, down to 0, and change nothing else (R65, R321). -/
def Obligations.TimersCountCycles : Prop :=
  ∀ (s : State) (n : Nat), runs n (choosing (List.replicate n .tick) s) = .next { s with
    ackTmr := s.ackTmr.map (· - n), rxTmr := s.rxTmr.map (· - n), stallTmr := s.stallTmr.map (· - n) }

/-! ### The whole machine -/

/-- R341's reset value of every state item, for every choice of the parameters, and at `State.reset`. A buffer byte is
unspecified: a free value. -/
def Obligations.ResetValues : Prop :=
  (∀ p : Params, ∀ s : State, s = State.resetWith p →
    s.ls.nextSendId = 0 ∧ s.ls.awaitAck = false ∧ s.ls.outId = 0 ∧ s.ls.lrValid = false ∧ s.ls.lrId = 0 ∧
    s.ls.newData = false ∧ s.ls.rxLen = 0 ∧ s.ls.peerEnd = false ∧ s.ls.localEnd = false ∧
    s.snd = .idle ∧ s.dsp = .off ∧ s.des = .hunt ∧ s.ser = .idle ∧
    s.sndLen = 0 ∧ s.sndId = 0 ∧ s.sndFinal = false ∧ s.attempts = 0 ∧ s.rxMiss = 0 ∧
    s.winN = 0 ∧ s.huntCnt = 0 ∧ s.candN = 0 ∧ s.candPl = 0 ∧ s.txPos = 0 ∧ s.rxr = .empty ∧
    s.txOwner = .none ∧ s.ackReq = false ∧ s.sndReq = false ∧ s.ackTmr = none ∧ s.rxTmr = none ∧
    s.stallTmr = none ∧ s.statusWord = 0 ∧ s.txLen = 0 ∧ s.irqEn = 0 ∧ s.lastErr = 0 ∧
    (∀ c, s.cnt.get c = 0) ∧ s.streamClose = false ∧ s.irq = false ∧
    (∀ a, s.byteOf a = Config.unspecifiedByte 0 a)) ∧
  State.reset = State.resetWith Config.params

/-- The `reset` event sets the whole state to R341's values in one transition, whatever the state before, the fatal
state included; the streams keep their bytes (R340, R342). -/
def Obligations.ResetFromEveryState : Prop :=
  ∀ s : State, ∃ t, step (chosen .reset s) = .next t ∧
    { t with rxStream := [], txStream := [], agenda := [], draws := 0, epoch := 0 } = State.resetWith s.cfg ∧
    t.rxStream = s.rxStream ∧ t.txStream = s.txStream ∧ t.agenda = s.agenda

/-- When the choice is a legal command word's write to `CMD`, or the dispatcher's transition with a frame in `RXR`, the
step is `exec` of the decoded instruction, in the state with only the choice taken. -/
def Obligations.StepRunsDecodedInstruction : Prop :=
  ∀ (s : State) (i : Instr),
    (∀ v : Word, decode s.cfg (.cmd v) = .ok i → step (chosen (.busWrite 0x0000 v) s) = exec i s) ∧
    (∀ (p : Params) (img : List Byte) (f : Frame), decode p (.frame img) = .ok i → validate img = .ok f →
      s.dsp = .recv → s.rxr = .frame f → step (chosen .dispatch s) = exec i s)

/-- Every step keeps the invariant. -/
def Obligations.EveryStepKeepsInvariant : Prop :=
  ∀ s t : State, Inv s → step s = .next t → Inv t

/-- The invariant holds at reset, for every admitted choice of the parameters. -/
def Obligations.ResetMeetsInvariant : Prop :=
  Inv State.reset ∧ ∀ p : Params, p.Wf → Inv (State.resetWith p)

/-- No state that meets the invariant faults or refuses: whatever transition is chosen, the machine goes on. -/
def Obligations.InvariantStatesGoOn : Prop :=
  ∀ s : State, Inv s → Goes s

/-- The fatal state is left only by `reset`: every other transition leaves the engines, the Link State, the queues, the
wire and the fatal bits as they are (R302, R305, R50). -/
def Obligations.FatalStateIsFinal : Prop :=
  ∀ (s t : State) (e : Event), Inv s → s.fatal = true → e ≠ .reset → step (chosen e s) = .next t →
    t.fatal = true ∧ t.fatalCause = s.fatalCause ∧ t.streamClose = true ∧ t.ls = s.ls ∧ t.snd = .halt ∧
    t.dsp = .halt ∧ t.des = s.des ∧ t.ser = .idle ∧ t.txOwner = .none ∧ t.ackReq = false ∧ t.sndReq = false ∧
    t.rxr = .empty ∧ t.attempts = s.attempts ∧ t.rxMiss = s.rxMiss ∧ t.lastErr = s.lastErr ∧ t.cnt = s.cnt ∧
    t.txStream = s.txStream ∧ t.sndImg = s.sndImg ∧ t.ackImg = s.ackImg ∧ t.ackTmr = none ∧ t.rxTmr = none ∧
    t.stallTmr = none

/-- Only the rules of R20's table write a Link State field (R21), `reset` apart: `NEXT_SEND_ID` and `LOCAL_END` are
written by ACKED (R205); `OUT_ID` when the last byte of a unit's frame is taken (R203); `AWAIT_ACK` is set there and
cleared for the matching ACK (R233); the record of the last id, `RX_LEN`, `RXBUF`, `PEER_END` and the setting of
`NEW_DATA` belong to a new unit that R236 accepts, a DATA unit only while `NEW_DATA` = 0 or under `OVERWRITE` (R237);
and DACK clears `NEW_DATA` (R263). -/
def Obligations.LinkStateWriters : Prop :=
  ∀ (s t : State) (e : Event), e ≠ .reset → step (chosen e s) = .next t →
    (t.ls.nextSendId ≠ s.ls.nextSendId → e = .acked ∧ s.snd = .wait ∧ s.ls.awaitAck = false) ∧
    (t.ls.localEnd ≠ s.ls.localEnd →
      e = .acked ∧ s.snd = .wait ∧ s.ls.awaitAck = false ∧ s.sndFinal = true ∧ t.ls.localEnd = true) ∧
    (t.ls.outId ≠ s.ls.outId →
      e = .txTake ∧ s.txOwner = .snd ∧ s.snd = .send ∧ s.txPos + 1 = s.sndLen ∧ t.ls.outId = s.sndId) ∧
    (t.ls.awaitAck ≠ s.ls.awaitAck →
      (e = .txTake ∧ s.txOwner = .snd ∧ s.snd = .send ∧ s.txPos + 1 = s.sndLen ∧ t.ls.awaitAck = true) ∨
      (e = .dispatch ∧ t.ls.awaitAck = false ∧
        ∃ f, s.rxr = .frame f ∧ f.flags = 0x80 ∧ f.id = s.ls.outId.setWidth 16)) ∧
    (t.ls.newData ≠ s.ls.newData →
      (e = .dispatch ∧ t.ls.newData = true ∧ ∃ f, s.rxr = .frame f ∧ f.flags = 0x00 ∧
        ¬(s.ls.lrValid = true ∧ f.id = s.ls.lrId.setWidth 16)) ∨
      (e = .busWrite 0x0000 0x00000002 ∧ s.fatal = false ∧ t.ls.newData = false)) ∧
    (t.ls.lrValid ≠ s.ls.lrValid ∨ t.ls.lrId ≠ s.ls.lrId →
      e = .dispatch ∧ t.ls.lrValid = true ∧ ∃ f, s.rxr = .frame f ∧
        ¬(s.ls.lrValid = true ∧ f.id = s.ls.lrId.setWidth 16) ∧
        (f.flags = 0x40 ∨ (f.flags = 0x00 ∧ (s.ls.newData = false ∨ s.cfg.overrun = .overwrite)))) ∧
    (t.ls.rxLen ≠ s.ls.rxLen ∨ (∃ a, 0x8000 ≤ a ∧ t.byteOf a ≠ s.byteOf a) →
      e = .dispatch ∧ ∃ f, s.rxr = .frame f ∧ f.flags = 0x00 ∧
        ¬(s.ls.lrValid = true ∧ f.id = s.ls.lrId.setWidth 16) ∧
        (s.ls.newData = false ∨ s.cfg.overrun = .overwrite)) ∧
    (t.ls.peerEnd ≠ s.ls.peerEnd →
      e = .dispatch ∧ t.ls.peerEnd = true ∧ ∃ f, s.rxr = .frame f ∧ f.flags = 0x40 ∧
        ¬(s.ls.lrValid = true ∧ f.id = s.ls.lrId.setWidth 16))

/-- `NEXT_SEND_ID` changes only by flipping, when a unit is acknowledged, and then the sender is idle: the ids of
successive units alternate. While a unit is in progress its id, kind, image and length stay as SEND captured them:
every attempt sends the same bytes (R210, R206, R86). -/
def Obligations.UnitKeepsItsIdAndImage : Prop :=
  ∀ (s t : State) (e : Event), e ≠ .reset → step (chosen e s) = .next t →
    (t.ls.nextSendId = s.ls.nextSendId ∨
      (t.ls.nextSendId = s.ls.nextSendId ^^^ 1 ∧ s.snd = .wait ∧ s.ls.awaitAck = false ∧ t.snd = .idle ∧
        t.txDone = true ∧ t.txOk = true)) ∧
    (s.snd = .send ∨ s.snd = .wait → t.snd = .send ∨ t.snd = .wait →
      t.sndId = s.sndId ∧ t.sndFinal = s.sndFinal ∧ t.sndImg = s.sndImg ∧ t.sndLen = s.sndLen)

/-- The stored bits of `STATUS` and what writes them (R50), `reset` apart. `FATAL` is set only when the dispatcher
consumes a RESET frame or the sender's RESET frame ends, and never cleared (R303). `TX_DONE` and `TX_OK` change only
when a unit is acknowledged (R205), when the fatal state ends a unit (R208, R302), and `TX_DONE` by its W1C write
(R266). `CMD_ERR` is set only by R262's four cases and `BUS_ERR` only by R261's refused accesses; each is cleared only
by a `STATUS` write with its bit set (R266, R304). -/
def Obligations.StickyStatusBits : Prop :=
  ∀ (s t : State) (e : Event), e ≠ .reset → step (chosen e s) = .next t →
    (s.fatal = true → t.fatal = true) ∧
    (s.fatal = false → t.fatal = true →
      (e = .dispatch ∧ (∃ f, s.rxr = .frame f ∧ f.flags = 0x20) ∧ t.fatalCause = .peerReset) ∨
      ((e = .txTake ∨ e = .txErr ∨ e = .txStall) ∧ s.snd = .reset ∧ s.txOwner = .snd ∧ t.fatalCause = .exhausted)) ∧
    (t.txDone ≠ s.txDone ∨ t.txOk ≠ s.txOk →
      (e = .acked ∧ s.snd = .wait ∧ s.ls.awaitAck = false ∧ t.txDone = true ∧ t.txOk = true) ∨
      ((s.snd = .send ∨ s.snd = .wait ∨ s.snd = .reset) ∧ t.snd = .halt ∧ t.fatal = true ∧ t.txDone = true ∧
        t.txOk = false) ∨
      (∃ v : Word, e = .busWrite 0x0004 v ∧ v.getLsbD 1 = true ∧ t.txDone = false ∧ t.txOk = s.txOk)) ∧
    (s.cmdErr = true → t.cmdErr = false → ∃ v : Word, e = .busWrite 0x0004 v ∧ v.getLsbD 9 = true) ∧
    (s.busErr = true → t.busErr = false → ∃ v : Word, e = .busWrite 0x0004 v ∧ v.getLsbD 10 = true) ∧
    (s.cmdErr = false → t.cmdErr = true → ∃ v : Word, e = .busWrite 0x0000 v ∧
      (4 ≤ (v.extractLsb' 0 8).toNat ∨ v.extractLsb' 10 22 ≠ 0 ∨
        (v.extractLsb' 0 8 ≠ 1 ∧ v.extractLsb' 8 2 ≠ 0) ∨
        (v.extractLsb' 0 8 = 1 ∧ (s.fatal = true ∨ s.snd ≠ .idle ∨ s.ls.localEnd = true ∨
          s.cfg.maxPayload < s.txLen.toNat + (v.getLsbD 9).toNat)) ∨
        (v.extractLsb' 0 8 = 2 ∧ s.fatal = true) ∨
        (v.extractLsb' 0 8 = 3 ∧ (s.fatal = true ∨ s.dsp ≠ .off)))) ∧
    (s.busErr = false → t.busErr = true → ∃ a : HostAddr,
      ((∃ v : Word, e = .busWrite a v) ∨ e = .busRead a) ∧
        (a.toNat % 4 ≠ 0 ∨ (0x0044 ≤ a.toNat ∧ a.toNat < 0x4000) ∨
          (0x4000 + 4 * s.cfg.maxPayload ≤ a.toNat ∧ a.toNat < 0x8000) ∨
          (0x8000 + 4 * s.cfg.maxPayload ≤ a.toNat ∧ a.toNat < 0xC000) ∨ 0xC000 ≤ a.toNat ∨
          ((∃ v : Word, e = .busWrite a v) ∧ s.snd.busy = true ∧
            (a = 0x000C ∨ (0x4000 ≤ a.toNat ∧ a.toNat < 0x4000 + 4 * s.cfg.maxPayload)))))

/-- The wire only grows, by the byte on offer when the stream takes it; and while a frame is being sent its bytes stand
last on the wire, in order, with no byte of another frame among them (R146, R148). -/
def Obligations.FramesDoNotInterleave : Prop :=
  (∀ (s t : State) (e : Event), step (chosen e s) = .next t →
    t.txStream = s.txStream ∨ (e = .txTake ∧ s.ser = .busy ∧ t.txStream = s.txStream ++ [s.txData])) ∧
  (∀ s t : State, Inv s → step s = .next t → t.ser = .busy → (t.txImage.take t.txPos) <:+ t.txStream)

/-- The bytes that wait in the incoming stream are taken one at a time, from the front, only by `rx_byte` while the
deserializer is ready, and an arriving byte is appended: no step reorders, duplicates or drops one (R76, R77, R342). -/
def Obligations.IncomingStreamIsOrdered : Prop :=
  ∀ (s t : State) (e : Event), step (chosen e s) = .next t →
    (t.rxStream = s.rxStream ∧ ∀ b, e ≠ .arrive b) ∨
    (∃ b, e = .arrive b ∧ t.rxStream = s.rxStream ++ [b]) ∨
    (∃ b, e = .rxByte ∧ s.dsp = .recv ∧ s.rxr = .empty ∧ s.rxStream = b :: t.rxStream)

/-- Round trip over the wire (R184): in a fresh round the bytes of a legal frame, delivered one by one, end the round
with that frame in the slot at its last byte, and the bytes behind it stay in the stream. -/
def Obligations.WireRoundTrip : Prop :=
  ∀ (s : State) (id : Half) (flags : Byte) (d rest : List Byte), s.cfg.Wf →
    (flags = 0x20 ∨ ((flags = 0x00 ∨ flags = 0x80 ∨ flags = 0x40) ∧ (id = 0 ∨ id = 1))) →
    d.length ≤ s.cfg.maxPayload →
    s.dsp = .recv → s.rxr = .empty → s.des = .hunt → s.winN = 0 → s.huntCnt = 0 →
    s.rxStream = frameImage s.cfg id flags d ++ rest →
    ∃ t, runs (15 + d.length) (choosing (List.replicate (15 + d.length) .rxByte) s) = .next t ∧
      t.rxr = .frame { id := id, flags := flags, length := BitVec.ofNat 16 d.length, payload := d } ∧
      t.rxStream = rest ∧ t.dsp = .recv ∧ t.ls = s.ls ∧ t.agenda = s.agenda

/-- Exhaustion by write failures (R201, R204, R208, R211): when every attempt fails, the sender makes exactly
`MAX_ATTEMPTS` attempts, queues the RESET frame, and whether that fails too enters the fatal state. -/
def Obligations.ExhaustionByWriteFailures : Prop :=
  ∀ s : State, s.cfg.Wf → s.fatal = false → s.snd = .send → s.attempts = 0 → s.sndReq = true → s.ackReq = false →
    s.ser = .idle →
    (∃ t, runs (2 * s.cfg.maxAttempts)
        (choosing (List.replicate s.cfg.maxAttempts [Event.grant, Event.txErr]).flatten s) = .next t ∧
      t.snd = .reset ∧ t.sndReq = true ∧ t.attempts.toNat = s.cfg.maxAttempts ∧ t.fatal = false ∧
      t.sndImg = frameImage s.cfg s.cfg.resetId 0x20 [] ∧ t.txStream = s.txStream ∧
      t.cnt.txIoErr = s.cnt.txIoErr + BitVec.ofNat 32 s.cfg.maxAttempts ∧
      t.cnt.retx = s.cnt.retx + BitVec.ofNat 32 (s.cfg.maxAttempts - 1)) ∧
    (∃ t, runs (2 * s.cfg.maxAttempts + 2)
        (choosing (List.replicate (s.cfg.maxAttempts + 1) [Event.grant, Event.txErr]).flatten s) = .next t ∧
      t.fatal = true ∧ t.fatalCause = .exhausted ∧ t.txDone = true ∧ t.txOk = false ∧ t.snd = .halt)

/-- Receive liveness window (R239, R354): with a silent peer, `MAX_ATTEMPTS` rounds of `RX_TIMEOUT` cycles each stop the
dispatcher in `D_EXPIRED`; that is not fatal and touches neither the sender nor the Link State. -/
def Obligations.SilentPeerExpires : Prop :=
  ∀ s : State, s.cfg.Wf → s.dsp = .recv → s.rxr = .empty → s.rxMiss = 0 → s.rxTmr = some s.cfg.rxTimeout →
    ¬(s.ls.peerEnd = true ∧ s.ls.localEnd = true) →
    ∃ t, runs (s.cfg.maxAttempts * (s.cfg.rxTimeout + 2))
        (choosing (List.replicate s.cfg.maxAttempts
          (List.replicate s.cfg.rxTimeout Event.tick ++ [Event.rxTimeout, Event.dispatch])).flatten s) = .next t ∧
      t.dsp = .expired ∧ t.rxMiss.toNat = s.cfg.maxAttempts ∧ t.lastErr = 7 ∧
      t.cnt.rxTimeout = s.cnt.rxTimeout + BitVec.ofNat 32 s.cfg.maxAttempts ∧ t.fatal = s.fatal ∧ t.ls = s.ls ∧
      t.snd = s.snd ∧ t.rxStream = s.rxStream

/-- Events of one clock cycle stand in the order of R307's items, none lost and none added: 1, `reset`; 2, the
dispatcher's classification of a RESET frame; 3, the end of the sender's RESET frame; 4, the dispatcher's ACK arm; 5,
`ack_timeout` (R207); 6, every other event. That a cycle is an agenda in that order is log entry 14. -/
def Obligations.CycleOrder : Prop :=
  ∀ (s : State) (es : List Event) (item : Event → Nat),
    item = (fun
      | .reset => 1
      | .dispatch =>
        match s.rxr with
        | .frame f => if f.flags = 0x20 then 2 else if f.flags = 0x80 then 4 else 6
        | _ => 6
      | .txTake => if s.txOwner = .snd ∧ s.snd = .reset ∧ s.txPos + 1 = s.sndLen then 3 else 6
      | .txErr => if s.txOwner = .snd ∧ s.snd = .reset then 3 else 6
      | .txStall => if s.txOwner = .snd ∧ s.snd = .reset then 3 else 6
      | .ackTimeout => 5
      | _ => 6) →
    (resolveCycle s es).Perm es ∧ (resolveCycle s es).Pairwise (fun x y => item x ≤ item y)
end

