-- ==== Sys2Proof/Laws/Checksum.lean ====
section
/-! SUPPORT. The checksum unit in arithmetic: the accumulator as an unbounded sum modulo 2^32, and folding as the one
representative in 1 … 0xFFFF of a nonzero sum's residue modulo 0xFFFF (R120 to R123, R126).
-/

namespace Sys2Proof

open Sys2Proof.Safety

/-- The accumulator is the sum of the words modulo 2^32. -/
theorem sumWords_eq (acc : Nat) (buf : List Byte) (h : acc < 2 ^ 32) :
    sumWords acc buf = (acc + wordSum buf) % 2 ^ 32 := by
  induction buf using wordSum.induct generalizing acc with
  | case1 => rw [sumWords, wordSum, Nat.add_zero, Nat.mod_eq_of_lt h]
  | case2 hi => simp [sumWords, wordSum, add32]
  | case3 hi lo rest ih =>
    rw [sumWords, ih (add32 acc (hi.toNat * 256 + lo.toNat)) (Nat.mod_lt _ (by norm_num)), wordSum, add32,
      Nat.mod_add_mod]
    congr 1
    omega

/-- A bound on the sum: each word is at most 0xFFFF. -/
theorem wordSum_le (buf : List Byte) : wordSum buf ≤ 0xFFFF * ((buf.length + 1) / 2) := by
  induction buf using wordSum.induct with
  | case1 => simp [wordSum]
  | case2 hi =>
    have := hi.isLt
    simp only [wordSum, List.length_cons, List.length_nil]
    omega
  | case3 hi lo rest ih =>
    have := hi.isLt
    have := lo.isLt
    simp only [wordSum, List.length_cons]
    omega

/-- Words add up piece by piece when the first piece holds whole words. -/
theorem wordSum_append (xs ys : List Byte) (h : xs.length % 2 = 0) : wordSum (xs ++ ys) = wordSum xs + wordSum ys := by
  induction xs using wordSum.induct with
  | case1 => simp [wordSum]
  | case2 hi => simp at h
  | case3 hi lo rest ih =>
    simp only [List.length_cons] at h
    simp only [List.cons_append, wordSum, ih (by omega)]
    omega

/-- Folding a 32-bit accumulator: below 2^16, of the same residue, and 0 only for 0. -/
theorem foldSum_spec (acc : Nat) (h : acc < 2 ^ 32) :
    foldSum 3 acc < 2 ^ 16 ∧ foldSum 3 acc % 0xFFFF = acc % 0xFFFF ∧ (foldSum 3 acc = 0 ↔ acc = 0) := by
  simp only [foldSum]
  split
  · omega
  · split
    · omega
    · split <;> omega

/-- The third folding pass is never used. -/
theorem foldSum_two (acc : Nat) (h : acc < 2 ^ 32) : foldSum 3 acc = foldSum 2 acc := by
  simp only [foldSum]
  split
  · rfl
  · split
    · rfl
    · rw [if_pos (by omega)]

/-- Nonzero sums fold alike exactly when their residues agree. -/
theorem foldSum_eq_iff {x y : Nat} (hx : x < 2 ^ 32) (hy : y < 2 ^ 32) (hx0 : x ≠ 0) (hy0 : y ≠ 0) :
    foldSum 3 x = foldSum 3 y ↔ x % 0xFFFF = y % 0xFFFF := by
  obtain ⟨a1, a2, a3⟩ := foldSum_spec x hx
  obtain ⟨b1, b2, b3⟩ := foldSum_spec y hy
  omega

/-- The checksum as a number. -/
theorem cksum_toNat (buf : List Byte) : (cksum buf).toNat = 0xFFFF - foldSum 3 (sumWords 0 buf) := by
  have hlt : sumWords 0 buf < 2 ^ 32 := by rw [sumWords_eq _ _ (by norm_num)]; exact Nat.mod_lt _ (by norm_num)
  have := (foldSum_spec _ hlt).1
  simp only [cksum, BitVec.toNat_not, BitVec.toNat_ofNat]
  omega

/-- Checksums agree exactly when the folded sums do. -/
theorem cksum_eq_iff (xs ys : List Byte) :
    cksum xs = cksum ys ↔ foldSum 3 (sumWords 0 xs) = foldSum 3 (sumWords 0 ys) := by
  have hx : sumWords 0 xs < 2 ^ 32 := by rw [sumWords_eq _ _ (by norm_num)]; exact Nat.mod_lt _ (by norm_num)
  have hy : sumWords 0 ys < 2 ^ 32 := by rw [sumWords_eq _ _ (by norm_num)]; exact Nat.mod_lt _ (by norm_num)
  have h1 := (foldSum_spec _ hx).1
  have h2 := (foldSum_spec _ hy).1
  rw [← BitVec.toNat_inj, cksum_toNat, cksum_toNat]
  omega

end Sys2Proof
end

