-- ==== Sys2Proof/Laws/Image.lean ====
section
/-! SUPPORT. Fields of byte sequences and of frame images (R13, R91, R140): a field written is the field read, an image
has `15 + L` bytes, and what the validator (R176 to R179) and the decoder make of an image.
-/

namespace Sys2Proof

/-! ### Multi-byte values (R13) -/

/-- `be16` after `bytes_be16`. -/
theorem half_of_bytes (v : Half) :
    BitVec.ofNat 16 ((v.extractLsb' 8 8).toNat * 256 + (v.extractLsb' 0 8).toNat) = v := by
  apply BitVec.eq_of_toNat_eq
  have := v.isLt
  simp [BitVec.extractLsb'_toNat, Nat.shiftRight_eq_div_pow]
  omega

/-- `bytes_be16` after `be16`. -/
theorem bytes_of_half (a b : Byte) : bytesBe16 (BitVec.ofNat 16 (a.toNat * 256 + b.toNat)) = [a, b] := by
  have := a.isLt
  have := b.isLt
  simp only [bytesBe16]
  congr 1
  · apply BitVec.eq_of_toNat_eq; simp [Nat.shiftRight_eq_div_pow]; omega
  · congr 1; apply BitVec.eq_of_toNat_eq; simp [Nat.shiftRight_eq_div_pow]; omega

/-- `be32` after `bytes_be32`. -/
theorem word_of_bytes (v : BitVec 32) :
    BitVec.ofNat 32 ((((v.extractLsb' 24 8).toNat * 256 + (v.extractLsb' 16 8).toNat) * 256
      + (v.extractLsb' 8 8).toNat) * 256 + (v.extractLsb' 0 8).toNat) = v := by
  apply BitVec.eq_of_toNat_eq
  have := v.isLt
  simp [BitVec.extractLsb'_toNat, Nat.shiftRight_eq_div_pow]
  omega

/-- `bytes_be32` after `be32`. -/
theorem bytes_of_word (a b c d : Byte) :
    bytesBe32 (BitVec.ofNat 32 (((a.toNat * 256 + b.toNat) * 256 + c.toNat) * 256 + d.toNat)) = [a, b, c, d] := by
  have := a.isLt
  have := b.isLt
  have := c.isLt
  have := d.isLt
  simp only [bytesBe32, List.cons.injEq, and_true]
  refine ⟨?_, ?_, ?_, ?_⟩ <;> apply BitVec.eq_of_toNat_eq <;> simp [Nat.shiftRight_eq_div_pow] <;> omega

/-- Bytes of a prefix. -/
theorem byteAt_append_left (xs ys : List Byte) (k : Nat) (h : k < xs.length) :
    byteAt (xs ++ ys) k = byteAt xs k := by
  unfold byteAt
  rw [List.getD_append _ _ _ _ h]

/-- A 16-bit field of a prefix. -/
theorem be16_append_left (xs ys : List Byte) (k : Nat) (h : k + 1 < xs.length) : be16 (xs ++ ys) k = be16 xs k := by
  unfold be16
  rw [byteAt_append_left _ _ _ (by omega), byteAt_append_left _ _ _ (by omega)]

/-- A 32-bit field of a prefix. -/
theorem be32_append_left (xs ys : List Byte) (k : Nat) (h : k + 3 < xs.length) : be32 (xs ++ ys) k = be32 xs k := by
  unfold be32
  rw [byteAt_append_left _ _ _ (by omega), byteAt_append_left _ _ _ (by omega),
    byteAt_append_left _ _ _ (by omega), byteAt_append_left _ _ _ (by omega)]

/-- A byte that is there. -/
theorem byteAt_eq_getElem (xs : List Byte) (k : Nat) (h : k < xs.length) : byteAt xs k = xs[k] := by
  rw [byteAt, List.getD_eq_getElem _ _ h]

/-! ### Images (R91) -/

/-- An image with any values in its fields, the checksum field included. -/
def rawImage (p : Params) (c len id : Half) (f : Byte) (d : List Byte) : List Byte :=
  bytesBe32 p.sync ++ bytesBe32 p.sync ++ bytesBe16 c ++ bytesBe16 len ++ bytesBe16 id ++ [f] ++ d

section RawImage

variable (p : Params) (c len id : Half) (f : Byte) (d : List Byte)

/-- The encoder's image: the checksum of the zeroed image, and the payload's length. -/
theorem frameImage_eq : frameImage p id f d =
    rawImage p (cksum (rawImage p 0 (BitVec.ofNat 16 d.length) id f d)) (BitVec.ofNat 16 d.length) id f d := rfl

@[simp] theorem rawImage_length : (rawImage p c len id f d).length = 15 + d.length := by
  simp [rawImage, bytesBe32, bytesBe16]; omega

@[simp] theorem frameImage_length : (frameImage p id f d).length = 15 + d.length := by
  rw [frameImage_eq, rawImage_length]

@[simp] theorem rawImage_sync1 : be32 (rawImage p c len id f d) 0 = p.sync := word_of_bytes p.sync

@[simp] theorem rawImage_sync2 : be32 (rawImage p c len id f d) 4 = p.sync := word_of_bytes p.sync

@[simp] theorem rawImage_cksum : be16 (rawImage p c len id f d) 8 = c := half_of_bytes c

@[simp] theorem rawImage_len : be16 (rawImage p c len id f d) 10 = len := half_of_bytes len

@[simp] theorem rawImage_id : be16 (rawImage p c len id f d) 12 = id := half_of_bytes id

@[simp] theorem rawImage_flags : byteAt (rawImage p c len id f d) 14 = f := rfl

@[simp] theorem rawImage_payload : (rawImage p c len id f d).drop hdrLen = d := rfl

@[simp] theorem rawImage_zero : zeroChecksum (rawImage p c len id f d) = rawImage p 0 len id f d := rfl

/-- CKVER of an image whose length field counts its payload: the stored checksum is the recomputed one. -/
theorem ckver_rawImage (h : d.length = len.toNat) :
    ckver (rawImage p c len id f d) = (c == cksum (rawImage p 0 len id f d)) := by
  unfold ckver
  rw [rawImage_cksum, rawImage_len, rawImage_zero, List.take_of_length_le (by simp [hdrLen]; omega)]

/-- The validator's verdict on an image whose length field counts its payload (R176 to R179). -/
theorem validate_rawImage (h : d.length = len.toNat) : validate (rawImage p c len id f d) =
    if c ≠ cksum (rawImage p 0 len id f d) then .error .checksum
    else if Kind.ofFlags f = none then .error .flags
    else if f ≠ 0x20#8 ∧ id ≠ 0#16 ∧ id ≠ 1#16 then .error .id
    else .ok { id := id, flags := f, length := len, payload := d } := by
  unfold validate
  simp only [rawImage_len, rawImage_id, rawImage_flags, rawImage_payload]
  rw [List.take_of_length_le (by simp [hdrLen]; omega), ckver_rawImage _ _ _ _ _ _ h,
    List.take_of_length_le (by omega)]
  simp

end RawImage

/-- A kind's flags byte selects the kind (R100). -/
@[simp] theorem Kind.ofFlags_flags (k : Kind) : Kind.ofFlags k.flags = some k := by cases k <;> rfl

/-- Only a kind's own flags byte selects it (R100). -/
theorem Kind.flags_of_ofFlags {f : Byte} {k : Kind} (h : Kind.ofFlags f = some k) : f = k.flags := by
  unfold Kind.ofFlags at h
  repeat' split at h
  all_goals first
    | (cases h; assumption)
    | cases h

/-- Every byte sequence of at least 15 bytes that starts with both markers is an image. -/
theorem eq_rawImage (p : Params) (img : List Byte) (h : 15 ≤ img.length) (h1 : be32 img 0 = p.sync)
    (h2 : be32 img 4 = p.sync) :
    img = rawImage p (be16 img 8) (be16 img 10) (be16 img 12) (byteAt img 14) (img.drop 15) := by
  rcases img with _ | ⟨b0, _ | ⟨b1, _ | ⟨b2, _ | ⟨b3, _ | ⟨b4, _ | ⟨b5, _ | ⟨b6, _ | ⟨b7, _ | ⟨b8, _ | ⟨b9, _ | ⟨b10,
    _ | ⟨b11, _ | ⟨b12, _ | ⟨b13, _ | ⟨b14, d⟩⟩⟩⟩⟩⟩⟩⟩⟩⟩⟩⟩⟩⟩⟩
  iterate 15 (simp only [List.length_cons, List.length_nil] at h; omega)
  have e1 : bytesBe32 p.sync = [b0, b1, b2, b3] := by rw [← h1]; exact bytes_of_word b0 b1 b2 b3
  have e2 : bytesBe32 p.sync = [b4, b5, b6, b7] := by rw [← h2]; exact bytes_of_word b4 b5 b6 b7
  have e3 := bytes_of_half b8 b9
  have e4 := bytes_of_half b10 b11
  have e5 := bytes_of_half b12 b13
  change _ = bytesBe32 p.sync ++ bytesBe32 p.sync ++ bytesBe16 (BitVec.ofNat 16 (b8.toNat * 256 + b9.toNat))
    ++ bytesBe16 (BitVec.ofNat 16 (b10.toNat * 256 + b11.toNat))
    ++ bytesBe16 (BitVec.ofNat 16 (b12.toNat * 256 + b13.toNat)) ++ [b14] ++ d
  rw [e3, e4, e5, e1]
  rw [e1] at e2
  simp only [List.cons.injEq, and_true] at e2
  obtain ⟨r4, r5, r6, r7⟩ := e2
  subst r4 r5 r6 r7
  rfl

end Sys2Proof
end

