-- ==== Sys2Proof/Laws/State.lean ====
section
/-! SUPPORT. What each update of State does to each field, so that no proof unfolds a record update. Every lemma is a
conjunction with one conjunct a field, true by rfl; as a simp lemma it is one rewrite rule for each field.
-/

namespace Sys2Proof.Machine

/-- Fields after `ACK_TMR` armed. -/
@[simp] theorem State.armAck_fields (s : State) :
    (s.armAck).cfg = s.cfg ∧ (s.armAck).ls = s.ls ∧ (s.armAck).snd = s.snd ∧ (s.armAck).dsp = s.dsp ∧
    (s.armAck).des = s.des ∧ (s.armAck).ser = s.ser ∧ (s.armAck).txDone = s.txDone ∧ (s.armAck).txOk = s.txOk ∧
    (s.armAck).fatal = s.fatal ∧ (s.armAck).fatalCause = s.fatalCause ∧ (s.armAck).cmdErr = s.cmdErr ∧
    (s.armAck).busErr = s.busErr ∧ (s.armAck).txLen = s.txLen ∧ (s.armAck).irqEn = s.irqEn ∧
    (s.armAck).lastErr = s.lastErr ∧ (s.armAck).cnt = s.cnt ∧ (s.armAck).mem = s.mem ∧ (s.armAck).sndImg = s.sndImg ∧
    (s.armAck).sndLen = s.sndLen ∧ (s.armAck).sndId = s.sndId ∧ (s.armAck).sndFinal = s.sndFinal ∧
    (s.armAck).attempts = s.attempts ∧ (s.armAck).rxMiss = s.rxMiss ∧ (s.armAck).win = s.win ∧
    (s.armAck).winN = s.winN ∧ (s.armAck).huntCnt = s.huntCnt ∧ (s.armAck).cand = s.cand ∧
    (s.armAck).candN = s.candN ∧ (s.armAck).candPl = s.candPl ∧ (s.armAck).rxr = s.rxr ∧
    (s.armAck).txOwner = s.txOwner ∧ (s.armAck).txPos = s.txPos ∧ (s.armAck).ackImg = s.ackImg ∧
    (s.armAck).ackReq = s.ackReq ∧ (s.armAck).sndReq = s.sndReq ∧ (s.armAck).ackTmr = some s.cfg.ackTimeout ∧
    (s.armAck).rxTmr = s.rxTmr ∧ (s.armAck).stallTmr = s.stallTmr ∧ (s.armAck).streamClose = s.streamClose ∧
    (s.armAck).busRdata = s.busRdata ∧ (s.armAck).rxStream = s.rxStream ∧ (s.armAck).txStream = s.txStream ∧
    (s.armAck).agenda = s.agenda ∧ (s.armAck).draws = s.draws ∧ (s.armAck).epoch = s.epoch :=
  ⟨rfl, rfl, rfl, rfl, rfl, rfl, rfl, rfl, rfl, rfl, rfl, rfl, rfl, rfl, rfl, rfl, rfl, rfl, rfl, rfl, rfl, rfl, rfl, rfl, rfl, rfl, rfl, rfl, rfl, rfl, rfl, rfl, rfl, rfl, rfl, rfl, rfl, rfl, rfl, rfl, rfl, rfl, rfl, rfl, rfl⟩

/-- Fields after `RX_TMR` armed. -/
@[simp] theorem State.armRx_fields (s : State) :
    (s.armRx).cfg = s.cfg ∧ (s.armRx).ls = s.ls ∧ (s.armRx).snd = s.snd ∧ (s.armRx).dsp = s.dsp ∧
    (s.armRx).des = s.des ∧ (s.armRx).ser = s.ser ∧ (s.armRx).txDone = s.txDone ∧ (s.armRx).txOk = s.txOk ∧
    (s.armRx).fatal = s.fatal ∧ (s.armRx).fatalCause = s.fatalCause ∧ (s.armRx).cmdErr = s.cmdErr ∧
    (s.armRx).busErr = s.busErr ∧ (s.armRx).txLen = s.txLen ∧ (s.armRx).irqEn = s.irqEn ∧
    (s.armRx).lastErr = s.lastErr ∧ (s.armRx).cnt = s.cnt ∧ (s.armRx).mem = s.mem ∧ (s.armRx).sndImg = s.sndImg ∧
    (s.armRx).sndLen = s.sndLen ∧ (s.armRx).sndId = s.sndId ∧ (s.armRx).sndFinal = s.sndFinal ∧
    (s.armRx).attempts = s.attempts ∧ (s.armRx).rxMiss = s.rxMiss ∧ (s.armRx).win = s.win ∧ (s.armRx).winN = s.winN ∧
    (s.armRx).huntCnt = s.huntCnt ∧ (s.armRx).cand = s.cand ∧ (s.armRx).candN = s.candN ∧
    (s.armRx).candPl = s.candPl ∧ (s.armRx).rxr = s.rxr ∧ (s.armRx).txOwner = s.txOwner ∧ (s.armRx).txPos = s.txPos ∧
    (s.armRx).ackImg = s.ackImg ∧ (s.armRx).ackReq = s.ackReq ∧ (s.armRx).sndReq = s.sndReq ∧
    (s.armRx).ackTmr = s.ackTmr ∧ (s.armRx).rxTmr = some s.cfg.rxTimeout ∧ (s.armRx).stallTmr = s.stallTmr ∧
    (s.armRx).streamClose = s.streamClose ∧ (s.armRx).busRdata = s.busRdata ∧ (s.armRx).rxStream = s.rxStream ∧
    (s.armRx).txStream = s.txStream ∧ (s.armRx).agenda = s.agenda ∧ (s.armRx).draws = s.draws ∧
    (s.armRx).epoch = s.epoch :=
  ⟨rfl, rfl, rfl, rfl, rfl, rfl, rfl, rfl, rfl, rfl, rfl, rfl, rfl, rfl, rfl, rfl, rfl, rfl, rfl, rfl, rfl, rfl, rfl, rfl, rfl, rfl, rfl, rfl, rfl, rfl, rfl, rfl, rfl, rfl, rfl, rfl, rfl, rfl, rfl, rfl, rfl, rfl, rfl, rfl, rfl⟩

/-- Fields after `STALL_TMR` armed. -/
@[simp] theorem State.armStall_fields (s : State) :
    (s.armStall).cfg = s.cfg ∧ (s.armStall).ls = s.ls ∧ (s.armStall).snd = s.snd ∧ (s.armStall).dsp = s.dsp ∧
    (s.armStall).des = s.des ∧ (s.armStall).ser = s.ser ∧ (s.armStall).txDone = s.txDone ∧
    (s.armStall).txOk = s.txOk ∧ (s.armStall).fatal = s.fatal ∧ (s.armStall).fatalCause = s.fatalCause ∧
    (s.armStall).cmdErr = s.cmdErr ∧ (s.armStall).busErr = s.busErr ∧ (s.armStall).txLen = s.txLen ∧
    (s.armStall).irqEn = s.irqEn ∧ (s.armStall).lastErr = s.lastErr ∧ (s.armStall).cnt = s.cnt ∧
    (s.armStall).mem = s.mem ∧ (s.armStall).sndImg = s.sndImg ∧ (s.armStall).sndLen = s.sndLen ∧
    (s.armStall).sndId = s.sndId ∧ (s.armStall).sndFinal = s.sndFinal ∧ (s.armStall).attempts = s.attempts ∧
    (s.armStall).rxMiss = s.rxMiss ∧ (s.armStall).win = s.win ∧ (s.armStall).winN = s.winN ∧
    (s.armStall).huntCnt = s.huntCnt ∧ (s.armStall).cand = s.cand ∧ (s.armStall).candN = s.candN ∧
    (s.armStall).candPl = s.candPl ∧ (s.armStall).rxr = s.rxr ∧ (s.armStall).txOwner = s.txOwner ∧
    (s.armStall).txPos = s.txPos ∧ (s.armStall).ackImg = s.ackImg ∧ (s.armStall).ackReq = s.ackReq ∧
    (s.armStall).sndReq = s.sndReq ∧ (s.armStall).ackTmr = s.ackTmr ∧ (s.armStall).rxTmr = s.rxTmr ∧
    (s.armStall).stallTmr = some s.cfg.txStallTimeout ∧ (s.armStall).streamClose = s.streamClose ∧
    (s.armStall).busRdata = s.busRdata ∧ (s.armStall).rxStream = s.rxStream ∧ (s.armStall).txStream = s.txStream ∧
    (s.armStall).agenda = s.agenda ∧ (s.armStall).draws = s.draws ∧ (s.armStall).epoch = s.epoch :=
  ⟨rfl, rfl, rfl, rfl, rfl, rfl, rfl, rfl, rfl, rfl, rfl, rfl, rfl, rfl, rfl, rfl, rfl, rfl, rfl, rfl, rfl, rfl, rfl, rfl, rfl, rfl, rfl, rfl, rfl, rfl, rfl, rfl, rfl, rfl, rfl, rfl, rfl, rfl, rfl, rfl, rfl, rfl, rfl, rfl, rfl⟩

/-- Fields after one clock cycle. -/
@[simp] theorem State.countTimers_fields (s : State) :
    (s.countTimers).cfg = s.cfg ∧ (s.countTimers).ls = s.ls ∧ (s.countTimers).snd = s.snd ∧
    (s.countTimers).dsp = s.dsp ∧ (s.countTimers).des = s.des ∧ (s.countTimers).ser = s.ser ∧
    (s.countTimers).txDone = s.txDone ∧ (s.countTimers).txOk = s.txOk ∧ (s.countTimers).fatal = s.fatal ∧
    (s.countTimers).fatalCause = s.fatalCause ∧ (s.countTimers).cmdErr = s.cmdErr ∧
    (s.countTimers).busErr = s.busErr ∧ (s.countTimers).txLen = s.txLen ∧ (s.countTimers).irqEn = s.irqEn ∧
    (s.countTimers).lastErr = s.lastErr ∧ (s.countTimers).cnt = s.cnt ∧ (s.countTimers).mem = s.mem ∧
    (s.countTimers).sndImg = s.sndImg ∧ (s.countTimers).sndLen = s.sndLen ∧ (s.countTimers).sndId = s.sndId ∧
    (s.countTimers).sndFinal = s.sndFinal ∧ (s.countTimers).attempts = s.attempts ∧
    (s.countTimers).rxMiss = s.rxMiss ∧ (s.countTimers).win = s.win ∧ (s.countTimers).winN = s.winN ∧
    (s.countTimers).huntCnt = s.huntCnt ∧ (s.countTimers).cand = s.cand ∧ (s.countTimers).candN = s.candN ∧
    (s.countTimers).candPl = s.candPl ∧ (s.countTimers).rxr = s.rxr ∧ (s.countTimers).txOwner = s.txOwner ∧
    (s.countTimers).txPos = s.txPos ∧ (s.countTimers).ackImg = s.ackImg ∧ (s.countTimers).ackReq = s.ackReq ∧
    (s.countTimers).sndReq = s.sndReq ∧ (s.countTimers).ackTmr = countDown s.ackTmr ∧
    (s.countTimers).rxTmr = countDown s.rxTmr ∧ (s.countTimers).stallTmr = countDown s.stallTmr ∧
    (s.countTimers).streamClose = s.streamClose ∧ (s.countTimers).busRdata = s.busRdata ∧
    (s.countTimers).rxStream = s.rxStream ∧ (s.countTimers).txStream = s.txStream ∧
    (s.countTimers).agenda = s.agenda ∧ (s.countTimers).draws = s.draws ∧ (s.countTimers).epoch = s.epoch :=
  ⟨rfl, rfl, rfl, rfl, rfl, rfl, rfl, rfl, rfl, rfl, rfl, rfl, rfl, rfl, rfl, rfl, rfl, rfl, rfl, rfl, rfl, rfl, rfl, rfl, rfl, rfl, rfl, rfl, rfl, rfl, rfl, rfl, rfl, rfl, rfl, rfl, rfl, rfl, rfl, rfl, rfl, rfl, rfl, rfl, rfl⟩

/-- Fields after ROUND_START. -/
@[simp] theorem State.roundStart_fields (s : State) :
    (s.roundStart).cfg = s.cfg ∧ (s.roundStart).ls = s.ls ∧ (s.roundStart).snd = s.snd ∧ (s.roundStart).dsp = s.dsp ∧
    (s.roundStart).des = .hunt ∧ (s.roundStart).ser = s.ser ∧ (s.roundStart).txDone = s.txDone ∧
    (s.roundStart).txOk = s.txOk ∧ (s.roundStart).fatal = s.fatal ∧ (s.roundStart).fatalCause = s.fatalCause ∧
    (s.roundStart).cmdErr = s.cmdErr ∧ (s.roundStart).busErr = s.busErr ∧ (s.roundStart).txLen = s.txLen ∧
    (s.roundStart).irqEn = s.irqEn ∧ (s.roundStart).lastErr = s.lastErr ∧ (s.roundStart).cnt = s.cnt ∧
    (s.roundStart).mem = s.mem ∧ (s.roundStart).sndImg = s.sndImg ∧ (s.roundStart).sndLen = s.sndLen ∧
    (s.roundStart).sndId = s.sndId ∧ (s.roundStart).sndFinal = s.sndFinal ∧ (s.roundStart).attempts = s.attempts ∧
    (s.roundStart).rxMiss = s.rxMiss ∧ (s.roundStart).win = s.win ∧ (s.roundStart).winN = 0 ∧
    (s.roundStart).huntCnt = 0 ∧ (s.roundStart).cand = s.cand ∧ (s.roundStart).candN = 0 ∧
    (s.roundStart).candPl = 0 ∧ (s.roundStart).rxr = .empty ∧ (s.roundStart).txOwner = s.txOwner ∧
    (s.roundStart).txPos = s.txPos ∧ (s.roundStart).ackImg = s.ackImg ∧ (s.roundStart).ackReq = s.ackReq ∧
    (s.roundStart).sndReq = s.sndReq ∧ (s.roundStart).ackTmr = s.ackTmr ∧
    (s.roundStart).rxTmr = some s.cfg.rxTimeout ∧ (s.roundStart).stallTmr = s.stallTmr ∧
    (s.roundStart).streamClose = s.streamClose ∧ (s.roundStart).busRdata = s.busRdata ∧
    (s.roundStart).rxStream = s.rxStream ∧ (s.roundStart).txStream = s.txStream ∧ (s.roundStart).agenda = s.agenda ∧
    (s.roundStart).draws = s.draws ∧ (s.roundStart).epoch = s.epoch :=
  ⟨rfl, rfl, rfl, rfl, rfl, rfl, rfl, rfl, rfl, rfl, rfl, rfl, rfl, rfl, rfl, rfl, rfl, rfl, rfl, rfl, rfl, rfl, rfl, rfl, rfl, rfl, rfl, rfl, rfl, rfl, rfl, rfl, rfl, rfl, rfl, rfl, rfl, rfl, rfl, rfl, rfl, rfl, rfl, rfl, rfl⟩

/-- Fields after an ACK queued. -/
@[simp] theorem State.queueAck_fields (s : State) (id : Half) :
    (s.queueAck id).cfg = s.cfg ∧ (s.queueAck id).ls = s.ls ∧ (s.queueAck id).snd = s.snd ∧
    (s.queueAck id).dsp = .ack ∧ (s.queueAck id).des = s.des ∧ (s.queueAck id).ser = s.ser ∧
    (s.queueAck id).txDone = s.txDone ∧ (s.queueAck id).txOk = s.txOk ∧ (s.queueAck id).fatal = s.fatal ∧
    (s.queueAck id).fatalCause = s.fatalCause ∧ (s.queueAck id).cmdErr = s.cmdErr ∧
    (s.queueAck id).busErr = s.busErr ∧ (s.queueAck id).txLen = s.txLen ∧ (s.queueAck id).irqEn = s.irqEn ∧
    (s.queueAck id).lastErr = s.lastErr ∧ (s.queueAck id).cnt = s.cnt ∧ (s.queueAck id).mem = s.mem ∧
    (s.queueAck id).sndImg = s.sndImg ∧ (s.queueAck id).sndLen = s.sndLen ∧ (s.queueAck id).sndId = s.sndId ∧
    (s.queueAck id).sndFinal = s.sndFinal ∧ (s.queueAck id).attempts = s.attempts ∧
    (s.queueAck id).rxMiss = s.rxMiss ∧ (s.queueAck id).win = s.win ∧ (s.queueAck id).winN = s.winN ∧
    (s.queueAck id).huntCnt = s.huntCnt ∧ (s.queueAck id).cand = s.cand ∧ (s.queueAck id).candN = s.candN ∧
    (s.queueAck id).candPl = s.candPl ∧ (s.queueAck id).rxr = s.rxr ∧ (s.queueAck id).txOwner = s.txOwner ∧
    (s.queueAck id).txPos = s.txPos ∧ (s.queueAck id).ackImg = frameImage s.cfg id Kind.ack.flags [] ∧
    (s.queueAck id).ackReq = true ∧ (s.queueAck id).sndReq = s.sndReq ∧ (s.queueAck id).ackTmr = s.ackTmr ∧
    (s.queueAck id).rxTmr = s.rxTmr ∧ (s.queueAck id).stallTmr = s.stallTmr ∧
    (s.queueAck id).streamClose = s.streamClose ∧ (s.queueAck id).busRdata = s.busRdata ∧
    (s.queueAck id).rxStream = s.rxStream ∧ (s.queueAck id).txStream = s.txStream ∧
    (s.queueAck id).agenda = s.agenda ∧ (s.queueAck id).draws = s.draws ∧ (s.queueAck id).epoch = s.epoch :=
  ⟨rfl, rfl, rfl, rfl, rfl, rfl, rfl, rfl, rfl, rfl, rfl, rfl, rfl, rfl, rfl, rfl, rfl, rfl, rfl, rfl, rfl, rfl, rfl, rfl, rfl, rfl, rfl, rfl, rfl, rfl, rfl, rfl, rfl, rfl, rfl, rfl, rfl, rfl, rfl, rfl, rfl, rfl, rfl, rfl, rfl⟩

/-- Fields after a payload delivered. -/
@[simp] theorem State.deliver_fields (s : State) (d : List Byte) :
    (s.deliver d).cfg = s.cfg ∧ (s.deliver d).ls = { s.ls with rxLen := BitVec.ofNat 13 d.length, newData := true } ∧
    (s.deliver d).snd = s.snd ∧ (s.deliver d).dsp = s.dsp ∧ (s.deliver d).des = s.des ∧ (s.deliver d).ser = s.ser ∧
    (s.deliver d).txDone = s.txDone ∧ (s.deliver d).txOk = s.txOk ∧ (s.deliver d).fatal = s.fatal ∧
    (s.deliver d).fatalCause = s.fatalCause ∧ (s.deliver d).cmdErr = s.cmdErr ∧ (s.deliver d).busErr = s.busErr ∧
    (s.deliver d).txLen = s.txLen ∧ (s.deliver d).irqEn = s.irqEn ∧ (s.deliver d).lastErr = s.lastErr ∧
    (s.deliver d).cnt = s.cnt ∧ (s.deliver d).mem = Memory.writeRun s.mem (rxBufAddr 0) d ∧
    (s.deliver d).sndImg = s.sndImg ∧ (s.deliver d).sndLen = s.sndLen ∧ (s.deliver d).sndId = s.sndId ∧
    (s.deliver d).sndFinal = s.sndFinal ∧ (s.deliver d).attempts = s.attempts ∧ (s.deliver d).rxMiss = s.rxMiss ∧
    (s.deliver d).win = s.win ∧ (s.deliver d).winN = s.winN ∧ (s.deliver d).huntCnt = s.huntCnt ∧
    (s.deliver d).cand = s.cand ∧ (s.deliver d).candN = s.candN ∧ (s.deliver d).candPl = s.candPl ∧
    (s.deliver d).rxr = s.rxr ∧ (s.deliver d).txOwner = s.txOwner ∧ (s.deliver d).txPos = s.txPos ∧
    (s.deliver d).ackImg = s.ackImg ∧ (s.deliver d).ackReq = s.ackReq ∧ (s.deliver d).sndReq = s.sndReq ∧
    (s.deliver d).ackTmr = s.ackTmr ∧ (s.deliver d).rxTmr = s.rxTmr ∧ (s.deliver d).stallTmr = s.stallTmr ∧
    (s.deliver d).streamClose = s.streamClose ∧ (s.deliver d).busRdata = s.busRdata ∧
    (s.deliver d).rxStream = s.rxStream ∧ (s.deliver d).txStream = s.txStream ∧ (s.deliver d).agenda = s.agenda ∧
    (s.deliver d).draws = s.draws ∧ (s.deliver d).epoch = s.epoch :=
  ⟨rfl, rfl, rfl, rfl, rfl, rfl, rfl, rfl, rfl, rfl, rfl, rfl, rfl, rfl, rfl, rfl, rfl, rfl, rfl, rfl, rfl, rfl, rfl, rfl, rfl, rfl, rfl, rfl, rfl, rfl, rfl, rfl, rfl, rfl, rfl, rfl, rfl, rfl, rfl, rfl, rfl, rfl, rfl, rfl, rfl⟩

/-- Fields after part 1 of GIVE_UP. -/
@[simp] theorem State.giveUp_fields (s : State) :
    (s.giveUp).cfg = s.cfg ∧ (s.giveUp).ls = s.ls ∧ (s.giveUp).snd = .reset ∧ (s.giveUp).dsp = s.dsp ∧
    (s.giveUp).des = s.des ∧ (s.giveUp).ser = s.ser ∧ (s.giveUp).txDone = s.txDone ∧ (s.giveUp).txOk = s.txOk ∧
    (s.giveUp).fatal = s.fatal ∧ (s.giveUp).fatalCause = s.fatalCause ∧ (s.giveUp).cmdErr = s.cmdErr ∧
    (s.giveUp).busErr = s.busErr ∧ (s.giveUp).txLen = s.txLen ∧ (s.giveUp).irqEn = s.irqEn ∧
    (s.giveUp).lastErr = s.lastErr ∧ (s.giveUp).cnt = s.cnt ∧ (s.giveUp).mem = s.mem ∧
    (s.giveUp).sndImg = frameImage s.cfg s.cfg.resetId Kind.reset.flags [] ∧ (s.giveUp).sndLen = hdrLen ∧
    (s.giveUp).sndId = s.sndId ∧ (s.giveUp).sndFinal = s.sndFinal ∧ (s.giveUp).attempts = s.attempts ∧
    (s.giveUp).rxMiss = s.rxMiss ∧ (s.giveUp).win = s.win ∧ (s.giveUp).winN = s.winN ∧
    (s.giveUp).huntCnt = s.huntCnt ∧ (s.giveUp).cand = s.cand ∧ (s.giveUp).candN = s.candN ∧
    (s.giveUp).candPl = s.candPl ∧ (s.giveUp).rxr = s.rxr ∧ (s.giveUp).txOwner = s.txOwner ∧
    (s.giveUp).txPos = s.txPos ∧ (s.giveUp).ackImg = s.ackImg ∧ (s.giveUp).ackReq = s.ackReq ∧
    (s.giveUp).sndReq = true ∧ (s.giveUp).ackTmr = s.ackTmr ∧ (s.giveUp).rxTmr = s.rxTmr ∧
    (s.giveUp).stallTmr = s.stallTmr ∧ (s.giveUp).streamClose = s.streamClose ∧ (s.giveUp).busRdata = s.busRdata ∧
    (s.giveUp).rxStream = s.rxStream ∧ (s.giveUp).txStream = s.txStream ∧ (s.giveUp).agenda = s.agenda ∧
    (s.giveUp).draws = s.draws ∧ (s.giveUp).epoch = s.epoch :=
  ⟨rfl, rfl, rfl, rfl, rfl, rfl, rfl, rfl, rfl, rfl, rfl, rfl, rfl, rfl, rfl, rfl, rfl, rfl, rfl, rfl, rfl, rfl, rfl, rfl, rfl, rfl, rfl, rfl, rfl, rfl, rfl, rfl, rfl, rfl, rfl, rfl, rfl, rfl, rfl, rfl, rfl, rfl, rfl, rfl, rfl⟩

/-- Fields after a command error. -/
@[simp] theorem State.commandError_fields (s : State) :
    (s.commandError).cfg = s.cfg ∧ (s.commandError).ls = s.ls ∧ (s.commandError).snd = s.snd ∧
    (s.commandError).dsp = s.dsp ∧ (s.commandError).des = s.des ∧ (s.commandError).ser = s.ser ∧
    (s.commandError).txDone = s.txDone ∧ (s.commandError).txOk = s.txOk ∧ (s.commandError).fatal = s.fatal ∧
    (s.commandError).fatalCause = s.fatalCause ∧ (s.commandError).cmdErr = true ∧
    (s.commandError).busErr = s.busErr ∧ (s.commandError).txLen = s.txLen ∧ (s.commandError).irqEn = s.irqEn ∧
    (s.commandError).lastErr = s.lastErr ∧ (s.commandError).cnt = s.cnt ∧ (s.commandError).mem = s.mem ∧
    (s.commandError).sndImg = s.sndImg ∧ (s.commandError).sndLen = s.sndLen ∧ (s.commandError).sndId = s.sndId ∧
    (s.commandError).sndFinal = s.sndFinal ∧ (s.commandError).attempts = s.attempts ∧
    (s.commandError).rxMiss = s.rxMiss ∧ (s.commandError).win = s.win ∧ (s.commandError).winN = s.winN ∧
    (s.commandError).huntCnt = s.huntCnt ∧ (s.commandError).cand = s.cand ∧ (s.commandError).candN = s.candN ∧
    (s.commandError).candPl = s.candPl ∧ (s.commandError).rxr = s.rxr ∧ (s.commandError).txOwner = s.txOwner ∧
    (s.commandError).txPos = s.txPos ∧ (s.commandError).ackImg = s.ackImg ∧ (s.commandError).ackReq = s.ackReq ∧
    (s.commandError).sndReq = s.sndReq ∧ (s.commandError).ackTmr = s.ackTmr ∧ (s.commandError).rxTmr = s.rxTmr ∧
    (s.commandError).stallTmr = s.stallTmr ∧ (s.commandError).streamClose = s.streamClose ∧
    (s.commandError).busRdata = s.busRdata ∧ (s.commandError).rxStream = s.rxStream ∧
    (s.commandError).txStream = s.txStream ∧ (s.commandError).agenda = s.agenda ∧ (s.commandError).draws = s.draws ∧
    (s.commandError).epoch = s.epoch :=
  ⟨rfl, rfl, rfl, rfl, rfl, rfl, rfl, rfl, rfl, rfl, rfl, rfl, rfl, rfl, rfl, rfl, rfl, rfl, rfl, rfl, rfl, rfl, rfl, rfl, rfl, rfl, rfl, rfl, rfl, rfl, rfl, rfl, rfl, rfl, rfl, rfl, rfl, rfl, rfl, rfl, rfl, rfl, rfl, rfl, rfl⟩

/-- Fields after a refused access. -/
@[simp] theorem State.busRefuse_fields (s : State) :
    (s.busRefuse).cfg = s.cfg ∧ (s.busRefuse).ls = s.ls ∧ (s.busRefuse).snd = s.snd ∧ (s.busRefuse).dsp = s.dsp ∧
    (s.busRefuse).des = s.des ∧ (s.busRefuse).ser = s.ser ∧ (s.busRefuse).txDone = s.txDone ∧
    (s.busRefuse).txOk = s.txOk ∧ (s.busRefuse).fatal = s.fatal ∧ (s.busRefuse).fatalCause = s.fatalCause ∧
    (s.busRefuse).cmdErr = s.cmdErr ∧ (s.busRefuse).busErr = true ∧ (s.busRefuse).txLen = s.txLen ∧
    (s.busRefuse).irqEn = s.irqEn ∧ (s.busRefuse).lastErr = s.lastErr ∧ (s.busRefuse).cnt = s.cnt ∧
    (s.busRefuse).mem = s.mem ∧ (s.busRefuse).sndImg = s.sndImg ∧ (s.busRefuse).sndLen = s.sndLen ∧
    (s.busRefuse).sndId = s.sndId ∧ (s.busRefuse).sndFinal = s.sndFinal ∧ (s.busRefuse).attempts = s.attempts ∧
    (s.busRefuse).rxMiss = s.rxMiss ∧ (s.busRefuse).win = s.win ∧ (s.busRefuse).winN = s.winN ∧
    (s.busRefuse).huntCnt = s.huntCnt ∧ (s.busRefuse).cand = s.cand ∧ (s.busRefuse).candN = s.candN ∧
    (s.busRefuse).candPl = s.candPl ∧ (s.busRefuse).rxr = s.rxr ∧ (s.busRefuse).txOwner = s.txOwner ∧
    (s.busRefuse).txPos = s.txPos ∧ (s.busRefuse).ackImg = s.ackImg ∧ (s.busRefuse).ackReq = s.ackReq ∧
    (s.busRefuse).sndReq = s.sndReq ∧ (s.busRefuse).ackTmr = s.ackTmr ∧ (s.busRefuse).rxTmr = s.rxTmr ∧
    (s.busRefuse).stallTmr = s.stallTmr ∧ (s.busRefuse).streamClose = s.streamClose ∧
    (s.busRefuse).busRdata = s.busRdata ∧ (s.busRefuse).rxStream = s.rxStream ∧ (s.busRefuse).txStream = s.txStream ∧
    (s.busRefuse).agenda = s.agenda ∧ (s.busRefuse).draws = s.draws ∧ (s.busRefuse).epoch = s.epoch :=
  ⟨rfl, rfl, rfl, rfl, rfl, rfl, rfl, rfl, rfl, rfl, rfl, rfl, rfl, rfl, rfl, rfl, rfl, rfl, rfl, rfl, rfl, rfl, rfl, rfl, rfl, rfl, rfl, rfl, rfl, rfl, rfl, rfl, rfl, rfl, rfl, rfl, rfl, rfl, rfl, rfl, rfl, rfl, rfl, rfl, rfl⟩

/-- Fields after the fatal state entered. -/
@[simp] theorem State.raiseFatal_fields (s : State) (c : FatalCause) :
    (s.raiseFatal c).cfg = s.cfg ∧ (s.raiseFatal c).ls = s.ls ∧ (s.raiseFatal c).snd = .halt ∧
    (s.raiseFatal c).dsp = .halt ∧ (s.raiseFatal c).des = .hunt ∧ (s.raiseFatal c).ser = .idle ∧
    (s.raiseFatal c).txDone = (s.txDone || s.snd.busy) ∧ (s.raiseFatal c).txOk = (s.txOk && !s.snd.busy) ∧
    (s.raiseFatal c).fatal = true ∧ (s.raiseFatal c).fatalCause = c ∧ (s.raiseFatal c).cmdErr = s.cmdErr ∧
    (s.raiseFatal c).busErr = s.busErr ∧ (s.raiseFatal c).txLen = s.txLen ∧ (s.raiseFatal c).irqEn = s.irqEn ∧
    (s.raiseFatal c).lastErr = s.lastErr ∧ (s.raiseFatal c).cnt = s.cnt ∧ (s.raiseFatal c).mem = s.mem ∧
    (s.raiseFatal c).sndImg = s.sndImg ∧ (s.raiseFatal c).sndLen = s.sndLen ∧ (s.raiseFatal c).sndId = s.sndId ∧
    (s.raiseFatal c).sndFinal = s.sndFinal ∧ (s.raiseFatal c).attempts = s.attempts ∧
    (s.raiseFatal c).rxMiss = s.rxMiss ∧ (s.raiseFatal c).win = s.win ∧ (s.raiseFatal c).winN = s.winN ∧
    (s.raiseFatal c).huntCnt = s.huntCnt ∧ (s.raiseFatal c).cand = s.cand ∧ (s.raiseFatal c).candN = s.candN ∧
    (s.raiseFatal c).candPl = s.candPl ∧ (s.raiseFatal c).rxr = .empty ∧ (s.raiseFatal c).txOwner = .none ∧
    (s.raiseFatal c).txPos = s.txPos ∧ (s.raiseFatal c).ackImg = s.ackImg ∧ (s.raiseFatal c).ackReq = false ∧
    (s.raiseFatal c).sndReq = false ∧ (s.raiseFatal c).ackTmr = none ∧ (s.raiseFatal c).rxTmr = none ∧
    (s.raiseFatal c).stallTmr = none ∧ (s.raiseFatal c).streamClose = true ∧ (s.raiseFatal c).busRdata = s.busRdata ∧
    (s.raiseFatal c).rxStream = s.rxStream ∧ (s.raiseFatal c).txStream = s.txStream ∧
    (s.raiseFatal c).agenda = s.agenda ∧ (s.raiseFatal c).draws = s.draws ∧ (s.raiseFatal c).epoch = s.epoch :=
  ⟨rfl, rfl, rfl, rfl, rfl, rfl, rfl, rfl, rfl, rfl, rfl, rfl, rfl, rfl, rfl, rfl, rfl, rfl, rfl, rfl, rfl, rfl, rfl, rfl, rfl, rfl, rfl, rfl, rfl, rfl, rfl, rfl, rfl, rfl, rfl, rfl, rfl, rfl, rfl, rfl, rfl, rfl, rfl, rfl, rfl⟩

/-- Fields after ACCEPT. -/
@[simp] theorem State.accept_fields (s : State) (final nl : Bool) :
    (s.accept final nl).cfg = s.cfg ∧ (s.accept final nl).ls = s.ls ∧ (s.accept final nl).snd = .send ∧
    (s.accept final nl).dsp = s.dsp ∧ (s.accept final nl).des = s.des ∧ (s.accept final nl).ser = s.ser ∧
    (s.accept final nl).txDone = s.txDone ∧ (s.accept final nl).txOk = s.txOk ∧ (s.accept final nl).fatal = s.fatal ∧
    (s.accept final nl).fatalCause = s.fatalCause ∧ (s.accept final nl).cmdErr = s.cmdErr ∧
    (s.accept final nl).busErr = s.busErr ∧ (s.accept final nl).txLen = s.txLen ∧
    (s.accept final nl).irqEn = s.irqEn ∧ (s.accept final nl).lastErr = s.lastErr ∧ (s.accept final nl).cnt = s.cnt ∧
    (s.accept final nl).mem = s.mem ∧
    (s.accept final nl).sndImg = frameImage s.cfg (idField s.ls.nextSendId) (unitFlags final) (s.sendPayload nl) ∧
    (s.accept final nl).sndLen = hdrLen + (s.sendPayload nl).length ∧ (s.accept final nl).sndId = s.ls.nextSendId ∧
    (s.accept final nl).sndFinal = final ∧ (s.accept final nl).attempts = 0 ∧ (s.accept final nl).rxMiss = s.rxMiss ∧
    (s.accept final nl).win = s.win ∧ (s.accept final nl).winN = s.winN ∧ (s.accept final nl).huntCnt = s.huntCnt ∧
    (s.accept final nl).cand = s.cand ∧ (s.accept final nl).candN = s.candN ∧ (s.accept final nl).candPl = s.candPl ∧
    (s.accept final nl).rxr = s.rxr ∧ (s.accept final nl).txOwner = s.txOwner ∧ (s.accept final nl).txPos = s.txPos ∧
    (s.accept final nl).ackImg = s.ackImg ∧ (s.accept final nl).ackReq = s.ackReq ∧
    (s.accept final nl).sndReq = true ∧ (s.accept final nl).ackTmr = s.ackTmr ∧ (s.accept final nl).rxTmr = s.rxTmr ∧
    (s.accept final nl).stallTmr = s.stallTmr ∧ (s.accept final nl).streamClose = s.streamClose ∧
    (s.accept final nl).busRdata = s.busRdata ∧ (s.accept final nl).rxStream = s.rxStream ∧
    (s.accept final nl).txStream = s.txStream ∧ (s.accept final nl).agenda = s.agenda ∧
    (s.accept final nl).draws = s.draws ∧ (s.accept final nl).epoch = s.epoch :=
  ⟨rfl, rfl, rfl, rfl, rfl, rfl, rfl, rfl, rfl, rfl, rfl, rfl, rfl, rfl, rfl, rfl, rfl, rfl, rfl, rfl, rfl, rfl, rfl, rfl, rfl, rfl, rfl, rfl, rfl, rfl, rfl, rfl, rfl, rfl, rfl, rfl, rfl, rfl, rfl, rfl, rfl, rfl, rfl, rfl, rfl⟩

/-- Fields after ATTEMPT_DONE. -/
@[simp] theorem State.attemptDone_fields (s : State) :
    (s.attemptDone).cfg = s.cfg ∧ (s.attemptDone).ls = { s.ls with awaitAck := true, outId := s.sndId } ∧
    (s.attemptDone).snd = .wait ∧ (s.attemptDone).dsp = s.dsp ∧ (s.attemptDone).des = s.des ∧
    (s.attemptDone).ser = s.ser ∧ (s.attemptDone).txDone = s.txDone ∧ (s.attemptDone).txOk = s.txOk ∧
    (s.attemptDone).fatal = s.fatal ∧ (s.attemptDone).fatalCause = s.fatalCause ∧ (s.attemptDone).cmdErr = s.cmdErr ∧
    (s.attemptDone).busErr = s.busErr ∧ (s.attemptDone).txLen = s.txLen ∧ (s.attemptDone).irqEn = s.irqEn ∧
    (s.attemptDone).lastErr = s.lastErr ∧ (s.attemptDone).cnt = s.cnt ∧ (s.attemptDone).mem = s.mem ∧
    (s.attemptDone).sndImg = s.sndImg ∧ (s.attemptDone).sndLen = s.sndLen ∧ (s.attemptDone).sndId = s.sndId ∧
    (s.attemptDone).sndFinal = s.sndFinal ∧ (s.attemptDone).attempts = s.attempts + 1 ∧
    (s.attemptDone).rxMiss = s.rxMiss ∧ (s.attemptDone).win = s.win ∧ (s.attemptDone).winN = s.winN ∧
    (s.attemptDone).huntCnt = s.huntCnt ∧ (s.attemptDone).cand = s.cand ∧ (s.attemptDone).candN = s.candN ∧
    (s.attemptDone).candPl = s.candPl ∧ (s.attemptDone).rxr = s.rxr ∧ (s.attemptDone).txOwner = s.txOwner ∧
    (s.attemptDone).txPos = s.txPos ∧ (s.attemptDone).ackImg = s.ackImg ∧ (s.attemptDone).ackReq = s.ackReq ∧
    (s.attemptDone).sndReq = s.sndReq ∧ (s.attemptDone).ackTmr = some s.cfg.ackTimeout ∧
    (s.attemptDone).rxTmr = s.rxTmr ∧ (s.attemptDone).stallTmr = s.stallTmr ∧
    (s.attemptDone).streamClose = s.streamClose ∧ (s.attemptDone).busRdata = s.busRdata ∧
    (s.attemptDone).rxStream = s.rxStream ∧ (s.attemptDone).txStream = s.txStream ∧
    (s.attemptDone).agenda = s.agenda ∧ (s.attemptDone).draws = s.draws ∧ (s.attemptDone).epoch = s.epoch :=
  ⟨rfl, rfl, rfl, rfl, rfl, rfl, rfl, rfl, rfl, rfl, rfl, rfl, rfl, rfl, rfl, rfl, rfl, rfl, rfl, rfl, rfl, rfl, rfl, rfl, rfl, rfl, rfl, rfl, rfl, rfl, rfl, rfl, rfl, rfl, rfl, rfl, rfl, rfl, rfl, rfl, rfl, rfl, rfl, rfl, rfl⟩

/-- Fields after ACKED. -/
@[simp] theorem State.acked_fields (s : State) :
    (s.acked).cfg = s.cfg ∧
    (s.acked).ls = { s.ls with nextSendId := 1 - s.ls.nextSendId, localEnd := s.ls.localEnd || s.sndFinal } ∧
    (s.acked).snd = .idle ∧ (s.acked).dsp = s.dsp ∧ (s.acked).des = s.des ∧ (s.acked).ser = s.ser ∧
    (s.acked).txDone = true ∧ (s.acked).txOk = true ∧ (s.acked).fatal = s.fatal ∧
    (s.acked).fatalCause = s.fatalCause ∧ (s.acked).cmdErr = s.cmdErr ∧ (s.acked).busErr = s.busErr ∧
    (s.acked).txLen = s.txLen ∧ (s.acked).irqEn = s.irqEn ∧ (s.acked).lastErr = s.lastErr ∧ (s.acked).cnt = s.cnt ∧
    (s.acked).mem = s.mem ∧ (s.acked).sndImg = s.sndImg ∧ (s.acked).sndLen = s.sndLen ∧ (s.acked).sndId = s.sndId ∧
    (s.acked).sndFinal = s.sndFinal ∧ (s.acked).attempts = s.attempts ∧ (s.acked).rxMiss = s.rxMiss ∧
    (s.acked).win = s.win ∧ (s.acked).winN = s.winN ∧ (s.acked).huntCnt = s.huntCnt ∧ (s.acked).cand = s.cand ∧
    (s.acked).candN = s.candN ∧ (s.acked).candPl = s.candPl ∧ (s.acked).rxr = s.rxr ∧ (s.acked).txOwner = s.txOwner ∧
    (s.acked).txPos = s.txPos ∧ (s.acked).ackImg = s.ackImg ∧ (s.acked).ackReq = s.ackReq ∧
    (s.acked).sndReq = s.sndReq ∧ (s.acked).ackTmr = none ∧ (s.acked).rxTmr = s.rxTmr ∧
    (s.acked).stallTmr = s.stallTmr ∧ (s.acked).streamClose = s.streamClose ∧ (s.acked).busRdata = s.busRdata ∧
    (s.acked).rxStream = s.rxStream ∧ (s.acked).txStream = s.txStream ∧ (s.acked).agenda = s.agenda ∧
    (s.acked).draws = s.draws ∧ (s.acked).epoch = s.epoch :=
  ⟨rfl, rfl, rfl, rfl, rfl, rfl, rfl, rfl, rfl, rfl, rfl, rfl, rfl, rfl, rfl, rfl, rfl, rfl, rfl, rfl, rfl, rfl, rfl, rfl, rfl, rfl, rfl, rfl, rfl, rfl, rfl, rfl, rfl, rfl, rfl, rfl, rfl, rfl, rfl, rfl, rfl, rfl, rfl, rfl, rfl⟩

/-- Fields after TX_GRANT. -/
@[simp] theorem State.grant_fields (s : State) :
    (s.grant).cfg = s.cfg ∧ (s.grant).ls = s.ls ∧ (s.grant).snd = s.snd ∧ (s.grant).dsp = s.dsp ∧
    (s.grant).des = s.des ∧ (s.grant).ser = .busy ∧ (s.grant).txDone = s.txDone ∧ (s.grant).txOk = s.txOk ∧
    (s.grant).fatal = s.fatal ∧ (s.grant).fatalCause = s.fatalCause ∧ (s.grant).cmdErr = s.cmdErr ∧
    (s.grant).busErr = s.busErr ∧ (s.grant).txLen = s.txLen ∧ (s.grant).irqEn = s.irqEn ∧
    (s.grant).lastErr = s.lastErr ∧ (s.grant).cnt = s.cnt ∧ (s.grant).mem = s.mem ∧ (s.grant).sndImg = s.sndImg ∧
    (s.grant).sndLen = s.sndLen ∧ (s.grant).sndId = s.sndId ∧ (s.grant).sndFinal = s.sndFinal ∧
    (s.grant).attempts = s.attempts ∧ (s.grant).rxMiss = s.rxMiss ∧ (s.grant).win = s.win ∧ (s.grant).winN = s.winN ∧
    (s.grant).huntCnt = s.huntCnt ∧ (s.grant).cand = s.cand ∧ (s.grant).candN = s.candN ∧
    (s.grant).candPl = s.candPl ∧ (s.grant).rxr = s.rxr ∧ (s.grant).txOwner = (if s.ackReq then .dsp else .snd) ∧
    (s.grant).txPos = 0 ∧ (s.grant).ackImg = s.ackImg ∧ (s.grant).ackReq = false ∧
    (s.grant).sndReq = (if s.ackReq then s.sndReq else false) ∧ (s.grant).ackTmr = s.ackTmr ∧
    (s.grant).rxTmr = s.rxTmr ∧ (s.grant).stallTmr = some s.cfg.txStallTimeout ∧
    (s.grant).streamClose = s.streamClose ∧ (s.grant).busRdata = s.busRdata ∧ (s.grant).rxStream = s.rxStream ∧
    (s.grant).txStream = s.txStream ∧ (s.grant).agenda = s.agenda ∧ (s.grant).draws = s.draws ∧
    (s.grant).epoch = s.epoch :=
  ⟨rfl, rfl, rfl, rfl, rfl, rfl, rfl, rfl, rfl, rfl, rfl, rfl, rfl, rfl, rfl, rfl, rfl, rfl, rfl, rfl, rfl, rfl, rfl, rfl, rfl, rfl, rfl, rfl, rfl, rfl, rfl, rfl, rfl, rfl, rfl, rfl, rfl, rfl, rfl, rfl, rfl, rfl, rfl, rfl, rfl⟩

/-- Fields after a frame's end. -/
@[simp] theorem State.endFrame_fields (s : State) (cnt : Counters) :
    (s.endFrame cnt).cfg = s.cfg ∧ (s.endFrame cnt).ls = s.ls ∧ (s.endFrame cnt).snd = s.snd ∧
    (s.endFrame cnt).dsp = s.dsp ∧ (s.endFrame cnt).des = s.des ∧ (s.endFrame cnt).ser = .idle ∧
    (s.endFrame cnt).txDone = s.txDone ∧ (s.endFrame cnt).txOk = s.txOk ∧ (s.endFrame cnt).fatal = s.fatal ∧
    (s.endFrame cnt).fatalCause = s.fatalCause ∧ (s.endFrame cnt).cmdErr = s.cmdErr ∧
    (s.endFrame cnt).busErr = s.busErr ∧ (s.endFrame cnt).txLen = s.txLen ∧ (s.endFrame cnt).irqEn = s.irqEn ∧
    (s.endFrame cnt).lastErr = s.lastErr ∧ (s.endFrame cnt).cnt = cnt ∧ (s.endFrame cnt).mem = s.mem ∧
    (s.endFrame cnt).sndImg = s.sndImg ∧ (s.endFrame cnt).sndLen = s.sndLen ∧ (s.endFrame cnt).sndId = s.sndId ∧
    (s.endFrame cnt).sndFinal = s.sndFinal ∧ (s.endFrame cnt).attempts = s.attempts ∧
    (s.endFrame cnt).rxMiss = s.rxMiss ∧ (s.endFrame cnt).win = s.win ∧ (s.endFrame cnt).winN = s.winN ∧
    (s.endFrame cnt).huntCnt = s.huntCnt ∧ (s.endFrame cnt).cand = s.cand ∧ (s.endFrame cnt).candN = s.candN ∧
    (s.endFrame cnt).candPl = s.candPl ∧ (s.endFrame cnt).rxr = s.rxr ∧ (s.endFrame cnt).txOwner = .none ∧
    (s.endFrame cnt).txPos = s.txPos ∧ (s.endFrame cnt).ackImg = s.ackImg ∧ (s.endFrame cnt).ackReq = s.ackReq ∧
    (s.endFrame cnt).sndReq = s.sndReq ∧ (s.endFrame cnt).ackTmr = s.ackTmr ∧ (s.endFrame cnt).rxTmr = s.rxTmr ∧
    (s.endFrame cnt).stallTmr = s.stallTmr ∧ (s.endFrame cnt).streamClose = s.streamClose ∧
    (s.endFrame cnt).busRdata = s.busRdata ∧ (s.endFrame cnt).rxStream = s.rxStream ∧
    (s.endFrame cnt).txStream = s.txStream ∧ (s.endFrame cnt).agenda = s.agenda ∧ (s.endFrame cnt).draws = s.draws ∧
    (s.endFrame cnt).epoch = s.epoch :=
  ⟨rfl, rfl, rfl, rfl, rfl, rfl, rfl, rfl, rfl, rfl, rfl, rfl, rfl, rfl, rfl, rfl, rfl, rfl, rfl, rfl, rfl, rfl, rfl, rfl, rfl, rfl, rfl, rfl, rfl, rfl, rfl, rfl, rfl, rfl, rfl, rfl, rfl, rfl, rfl, rfl, rfl, rfl, rfl, rfl, rfl⟩

/-- Fields after a byte taken. -/
@[simp] theorem State.sendByte_fields (s : State) :
    (s.sendByte).cfg = s.cfg ∧ (s.sendByte).ls = s.ls ∧ (s.sendByte).snd = s.snd ∧ (s.sendByte).dsp = s.dsp ∧
    (s.sendByte).des = s.des ∧ (s.sendByte).ser = s.ser ∧ (s.sendByte).txDone = s.txDone ∧
    (s.sendByte).txOk = s.txOk ∧ (s.sendByte).fatal = s.fatal ∧ (s.sendByte).fatalCause = s.fatalCause ∧
    (s.sendByte).cmdErr = s.cmdErr ∧ (s.sendByte).busErr = s.busErr ∧ (s.sendByte).txLen = s.txLen ∧
    (s.sendByte).irqEn = s.irqEn ∧ (s.sendByte).lastErr = s.lastErr ∧ (s.sendByte).cnt = s.cnt ∧
    (s.sendByte).mem = s.mem ∧ (s.sendByte).sndImg = s.sndImg ∧ (s.sendByte).sndLen = s.sndLen ∧
    (s.sendByte).sndId = s.sndId ∧ (s.sendByte).sndFinal = s.sndFinal ∧ (s.sendByte).attempts = s.attempts ∧
    (s.sendByte).rxMiss = s.rxMiss ∧ (s.sendByte).win = s.win ∧ (s.sendByte).winN = s.winN ∧
    (s.sendByte).huntCnt = s.huntCnt ∧ (s.sendByte).cand = s.cand ∧ (s.sendByte).candN = s.candN ∧
    (s.sendByte).candPl = s.candPl ∧ (s.sendByte).rxr = s.rxr ∧ (s.sendByte).txOwner = s.txOwner ∧
    (s.sendByte).txPos = s.txPos + 1 ∧ (s.sendByte).ackImg = s.ackImg ∧ (s.sendByte).ackReq = s.ackReq ∧
    (s.sendByte).sndReq = s.sndReq ∧ (s.sendByte).ackTmr = s.ackTmr ∧ (s.sendByte).rxTmr = s.rxTmr ∧
    (s.sendByte).stallTmr = some s.cfg.txStallTimeout ∧ (s.sendByte).streamClose = s.streamClose ∧
    (s.sendByte).busRdata = s.busRdata ∧ (s.sendByte).rxStream = s.rxStream ∧
    (s.sendByte).txStream = s.txStream ++ [s.txData] ∧ (s.sendByte).agenda = s.agenda ∧
    (s.sendByte).draws = s.draws ∧ (s.sendByte).epoch = s.epoch :=
  ⟨rfl, rfl, rfl, rfl, rfl, rfl, rfl, rfl, rfl, rfl, rfl, rfl, rfl, rfl, rfl, rfl, rfl, rfl, rfl, rfl, rfl, rfl, rfl, rfl, rfl, rfl, rfl, rfl, rfl, rfl, rfl, rfl, rfl, rfl, rfl, rfl, rfl, rfl, rfl, rfl, rfl, rfl, rfl, rfl, rfl⟩

/-- Fields after a rejection. -/
@[simp] theorem State.rejectRound_fields (s : State) (r : Reject) :
    (s.rejectRound r).cfg = s.cfg ∧ (s.rejectRound r).ls = s.ls ∧ (s.rejectRound r).snd = s.snd ∧
    (s.rejectRound r).dsp = s.dsp ∧ (s.rejectRound r).des = s.des ∧ (s.rejectRound r).ser = s.ser ∧
    (s.rejectRound r).txDone = s.txDone ∧ (s.rejectRound r).txOk = s.txOk ∧ (s.rejectRound r).fatal = s.fatal ∧
    (s.rejectRound r).fatalCause = s.fatalCause ∧ (s.rejectRound r).cmdErr = s.cmdErr ∧
    (s.rejectRound r).busErr = s.busErr ∧ (s.rejectRound r).txLen = s.txLen ∧ (s.rejectRound r).irqEn = s.irqEn ∧
    (s.rejectRound r).lastErr = s.lastErr ∧ (s.rejectRound r).cnt = s.cnt ∧ (s.rejectRound r).mem = s.mem ∧
    (s.rejectRound r).sndImg = s.sndImg ∧ (s.rejectRound r).sndLen = s.sndLen ∧ (s.rejectRound r).sndId = s.sndId ∧
    (s.rejectRound r).sndFinal = s.sndFinal ∧ (s.rejectRound r).attempts = s.attempts ∧
    (s.rejectRound r).rxMiss = s.rxMiss ∧ (s.rejectRound r).win = s.win ∧ (s.rejectRound r).winN = s.winN ∧
    (s.rejectRound r).huntCnt = s.huntCnt ∧ (s.rejectRound r).cand = s.cand ∧ (s.rejectRound r).candN = s.candN ∧
    (s.rejectRound r).candPl = s.candPl ∧ (s.rejectRound r).rxr = .reject r ∧ (s.rejectRound r).txOwner = s.txOwner ∧
    (s.rejectRound r).txPos = s.txPos ∧ (s.rejectRound r).ackImg = s.ackImg ∧ (s.rejectRound r).ackReq = s.ackReq ∧
    (s.rejectRound r).sndReq = s.sndReq ∧ (s.rejectRound r).ackTmr = s.ackTmr ∧ (s.rejectRound r).rxTmr = s.rxTmr ∧
    (s.rejectRound r).stallTmr = s.stallTmr ∧ (s.rejectRound r).streamClose = s.streamClose ∧
    (s.rejectRound r).busRdata = s.busRdata ∧ (s.rejectRound r).rxStream = s.rxStream ∧
    (s.rejectRound r).txStream = s.txStream ∧ (s.rejectRound r).agenda = s.agenda ∧
    (s.rejectRound r).draws = s.draws ∧ (s.rejectRound r).epoch = s.epoch :=
  ⟨rfl, rfl, rfl, rfl, rfl, rfl, rfl, rfl, rfl, rfl, rfl, rfl, rfl, rfl, rfl, rfl, rfl, rfl, rfl, rfl, rfl, rfl, rfl, rfl, rfl, rfl, rfl, rfl, rfl, rfl, rfl, rfl, rfl, rfl, rfl, rfl, rfl, rfl, rfl, rfl, rfl, rfl, rfl, rfl, rfl⟩

/-- Fields after RX_TIMEOUT. -/
@[simp] theorem State.rxTimeout_fields (s : State) :
    (s.rxTimeout).cfg = s.cfg ∧ (s.rxTimeout).ls = s.ls ∧ (s.rxTimeout).snd = s.snd ∧ (s.rxTimeout).dsp = s.dsp ∧
    (s.rxTimeout).des = s.des ∧ (s.rxTimeout).ser = s.ser ∧ (s.rxTimeout).txDone = s.txDone ∧
    (s.rxTimeout).txOk = s.txOk ∧ (s.rxTimeout).fatal = s.fatal ∧ (s.rxTimeout).fatalCause = s.fatalCause ∧
    (s.rxTimeout).cmdErr = s.cmdErr ∧ (s.rxTimeout).busErr = s.busErr ∧ (s.rxTimeout).txLen = s.txLen ∧
    (s.rxTimeout).irqEn = s.irqEn ∧ (s.rxTimeout).lastErr = s.lastErr ∧ (s.rxTimeout).cnt = s.cnt ∧
    (s.rxTimeout).mem = s.mem ∧ (s.rxTimeout).sndImg = s.sndImg ∧ (s.rxTimeout).sndLen = s.sndLen ∧
    (s.rxTimeout).sndId = s.sndId ∧ (s.rxTimeout).sndFinal = s.sndFinal ∧ (s.rxTimeout).attempts = s.attempts ∧
    (s.rxTimeout).rxMiss = s.rxMiss ∧ (s.rxTimeout).win = s.win ∧ (s.rxTimeout).winN = s.winN ∧
    (s.rxTimeout).huntCnt = s.huntCnt ∧ (s.rxTimeout).cand = s.cand ∧ (s.rxTimeout).candN = s.candN ∧
    (s.rxTimeout).candPl = s.candPl ∧ (s.rxTimeout).rxr = .timeout ∧ (s.rxTimeout).txOwner = s.txOwner ∧
    (s.rxTimeout).txPos = s.txPos ∧ (s.rxTimeout).ackImg = s.ackImg ∧ (s.rxTimeout).ackReq = s.ackReq ∧
    (s.rxTimeout).sndReq = s.sndReq ∧ (s.rxTimeout).ackTmr = s.ackTmr ∧ (s.rxTimeout).rxTmr = s.rxTmr ∧
    (s.rxTimeout).stallTmr = s.stallTmr ∧ (s.rxTimeout).streamClose = s.streamClose ∧
    (s.rxTimeout).busRdata = s.busRdata ∧ (s.rxTimeout).rxStream = s.rxStream ∧ (s.rxTimeout).txStream = s.txStream ∧
    (s.rxTimeout).agenda = s.agenda ∧ (s.rxTimeout).draws = s.draws ∧ (s.rxTimeout).epoch = s.epoch :=
  ⟨rfl, rfl, rfl, rfl, rfl, rfl, rfl, rfl, rfl, rfl, rfl, rfl, rfl, rfl, rfl, rfl, rfl, rfl, rfl, rfl, rfl, rfl, rfl, rfl, rfl, rfl, rfl, rfl, rfl, rfl, rfl, rfl, rfl, rfl, rfl, rfl, rfl, rfl, rfl, rfl, rfl, rfl, rfl, rfl, rfl⟩

/-- Fields after a candidate byte. -/
@[simp] theorem State.pushCand_fields (s : State) (b : Byte) :
    (s.pushCand b).cfg = s.cfg ∧ (s.pushCand b).ls = s.ls ∧ (s.pushCand b).snd = s.snd ∧ (s.pushCand b).dsp = s.dsp ∧
    (s.pushCand b).des = s.des ∧ (s.pushCand b).ser = s.ser ∧ (s.pushCand b).txDone = s.txDone ∧
    (s.pushCand b).txOk = s.txOk ∧ (s.pushCand b).fatal = s.fatal ∧ (s.pushCand b).fatalCause = s.fatalCause ∧
    (s.pushCand b).cmdErr = s.cmdErr ∧ (s.pushCand b).busErr = s.busErr ∧ (s.pushCand b).txLen = s.txLen ∧
    (s.pushCand b).irqEn = s.irqEn ∧ (s.pushCand b).lastErr = s.lastErr ∧ (s.pushCand b).cnt = s.cnt ∧
    (s.pushCand b).mem = s.mem ∧ (s.pushCand b).sndImg = s.sndImg ∧ (s.pushCand b).sndLen = s.sndLen ∧
    (s.pushCand b).sndId = s.sndId ∧ (s.pushCand b).sndFinal = s.sndFinal ∧ (s.pushCand b).attempts = s.attempts ∧
    (s.pushCand b).rxMiss = s.rxMiss ∧ (s.pushCand b).win = s.win ∧ (s.pushCand b).winN = s.winN ∧
    (s.pushCand b).huntCnt = s.huntCnt ∧ (s.pushCand b).cand = s.cand.take s.candN ++ [b] ∧
    (s.pushCand b).candN = s.candN + 1 ∧ (s.pushCand b).candPl = s.candPl ∧ (s.pushCand b).rxr = s.rxr ∧
    (s.pushCand b).txOwner = s.txOwner ∧ (s.pushCand b).txPos = s.txPos ∧ (s.pushCand b).ackImg = s.ackImg ∧
    (s.pushCand b).ackReq = s.ackReq ∧ (s.pushCand b).sndReq = s.sndReq ∧ (s.pushCand b).ackTmr = s.ackTmr ∧
    (s.pushCand b).rxTmr = some s.cfg.rxTimeout ∧ (s.pushCand b).stallTmr = s.stallTmr ∧
    (s.pushCand b).streamClose = s.streamClose ∧ (s.pushCand b).busRdata = s.busRdata ∧
    (s.pushCand b).rxStream = s.rxStream ∧ (s.pushCand b).txStream = s.txStream ∧ (s.pushCand b).agenda = s.agenda ∧
    (s.pushCand b).draws = s.draws ∧ (s.pushCand b).epoch = s.epoch :=
  ⟨rfl, rfl, rfl, rfl, rfl, rfl, rfl, rfl, rfl, rfl, rfl, rfl, rfl, rfl, rfl, rfl, rfl, rfl, rfl, rfl, rfl, rfl, rfl, rfl, rfl, rfl, rfl, rfl, rfl, rfl, rfl, rfl, rfl, rfl, rfl, rfl, rfl, rfl, rfl, rfl, rfl, rfl, rfl, rfl, rfl⟩

/-- Fields after the shared part of CLASSIFY. -/
@[simp] theorem State.classified_fields (s : State) :
    (s.classified).cfg = s.cfg ∧ (s.classified).ls = s.ls ∧ (s.classified).snd = s.snd ∧ (s.classified).dsp = s.dsp ∧
    (s.classified).des = s.des ∧ (s.classified).ser = s.ser ∧ (s.classified).txDone = s.txDone ∧
    (s.classified).txOk = s.txOk ∧ (s.classified).fatal = s.fatal ∧ (s.classified).fatalCause = s.fatalCause ∧
    (s.classified).cmdErr = s.cmdErr ∧ (s.classified).busErr = s.busErr ∧ (s.classified).txLen = s.txLen ∧
    (s.classified).irqEn = s.irqEn ∧ (s.classified).lastErr = s.lastErr ∧
    (s.classified).cnt = { s.cnt with rxFrames := bump s.cnt.rxFrames } ∧ (s.classified).mem = s.mem ∧
    (s.classified).sndImg = s.sndImg ∧ (s.classified).sndLen = s.sndLen ∧ (s.classified).sndId = s.sndId ∧
    (s.classified).sndFinal = s.sndFinal ∧ (s.classified).attempts = s.attempts ∧ (s.classified).rxMiss = 0 ∧
    (s.classified).win = s.win ∧ (s.classified).winN = s.winN ∧ (s.classified).huntCnt = s.huntCnt ∧
    (s.classified).cand = s.cand ∧ (s.classified).candN = s.candN ∧ (s.classified).candPl = s.candPl ∧
    (s.classified).rxr = .empty ∧ (s.classified).txOwner = s.txOwner ∧ (s.classified).txPos = s.txPos ∧
    (s.classified).ackImg = s.ackImg ∧ (s.classified).ackReq = s.ackReq ∧ (s.classified).sndReq = s.sndReq ∧
    (s.classified).ackTmr = s.ackTmr ∧ (s.classified).rxTmr = s.rxTmr ∧ (s.classified).stallTmr = s.stallTmr ∧
    (s.classified).streamClose = s.streamClose ∧ (s.classified).busRdata = s.busRdata ∧
    (s.classified).rxStream = s.rxStream ∧ (s.classified).txStream = s.txStream ∧ (s.classified).agenda = s.agenda ∧
    (s.classified).draws = s.draws ∧ (s.classified).epoch = s.epoch :=
  ⟨rfl, rfl, rfl, rfl, rfl, rfl, rfl, rfl, rfl, rfl, rfl, rfl, rfl, rfl, rfl, rfl, rfl, rfl, rfl, rfl, rfl, rfl, rfl, rfl, rfl, rfl, rfl, rfl, rfl, rfl, rfl, rfl, rfl, rfl, rfl, rfl, rfl, rfl, rfl, rfl, rfl, rfl, rfl, rfl, rfl⟩

/-- Fields after a unit recorded. -/
@[simp] theorem State.record_fields (s : State) (id : Half) :
    (s.record id).cfg = s.cfg ∧ (s.record id).ls = { s.ls with lrValid := true, lrId := idBit id } ∧
    (s.record id).snd = s.snd ∧ (s.record id).dsp = s.dsp ∧ (s.record id).des = s.des ∧ (s.record id).ser = s.ser ∧
    (s.record id).txDone = s.txDone ∧ (s.record id).txOk = s.txOk ∧ (s.record id).fatal = s.fatal ∧
    (s.record id).fatalCause = s.fatalCause ∧ (s.record id).cmdErr = s.cmdErr ∧ (s.record id).busErr = s.busErr ∧
    (s.record id).txLen = s.txLen ∧ (s.record id).irqEn = s.irqEn ∧ (s.record id).lastErr = s.lastErr ∧
    (s.record id).cnt = s.cnt ∧ (s.record id).mem = s.mem ∧ (s.record id).sndImg = s.sndImg ∧
    (s.record id).sndLen = s.sndLen ∧ (s.record id).sndId = s.sndId ∧ (s.record id).sndFinal = s.sndFinal ∧
    (s.record id).attempts = s.attempts ∧ (s.record id).rxMiss = s.rxMiss ∧ (s.record id).win = s.win ∧
    (s.record id).winN = s.winN ∧ (s.record id).huntCnt = s.huntCnt ∧ (s.record id).cand = s.cand ∧
    (s.record id).candN = s.candN ∧ (s.record id).candPl = s.candPl ∧ (s.record id).rxr = s.rxr ∧
    (s.record id).txOwner = s.txOwner ∧ (s.record id).txPos = s.txPos ∧ (s.record id).ackImg = s.ackImg ∧
    (s.record id).ackReq = s.ackReq ∧ (s.record id).sndReq = s.sndReq ∧ (s.record id).ackTmr = s.ackTmr ∧
    (s.record id).rxTmr = s.rxTmr ∧ (s.record id).stallTmr = s.stallTmr ∧ (s.record id).streamClose = s.streamClose ∧
    (s.record id).busRdata = s.busRdata ∧ (s.record id).rxStream = s.rxStream ∧ (s.record id).txStream = s.txStream ∧
    (s.record id).agenda = s.agenda ∧ (s.record id).draws = s.draws ∧ (s.record id).epoch = s.epoch :=
  ⟨rfl, rfl, rfl, rfl, rfl, rfl, rfl, rfl, rfl, rfl, rfl, rfl, rfl, rfl, rfl, rfl, rfl, rfl, rfl, rfl, rfl, rfl, rfl, rfl, rfl, rfl, rfl, rfl, rfl, rfl, rfl, rfl, rfl, rfl, rfl, rfl, rfl, rfl, rfl, rfl, rfl, rfl, rfl, rfl, rfl⟩

/-- Fields after `PEER_END` latched. -/
@[simp] theorem State.latchPeerEnd_fields (s : State) :
    (s.latchPeerEnd).cfg = s.cfg ∧ (s.latchPeerEnd).ls = { s.ls with peerEnd := true } ∧
    (s.latchPeerEnd).snd = s.snd ∧ (s.latchPeerEnd).dsp = s.dsp ∧ (s.latchPeerEnd).des = s.des ∧
    (s.latchPeerEnd).ser = s.ser ∧ (s.latchPeerEnd).txDone = s.txDone ∧ (s.latchPeerEnd).txOk = s.txOk ∧
    (s.latchPeerEnd).fatal = s.fatal ∧ (s.latchPeerEnd).fatalCause = s.fatalCause ∧
    (s.latchPeerEnd).cmdErr = s.cmdErr ∧ (s.latchPeerEnd).busErr = s.busErr ∧ (s.latchPeerEnd).txLen = s.txLen ∧
    (s.latchPeerEnd).irqEn = s.irqEn ∧ (s.latchPeerEnd).lastErr = s.lastErr ∧ (s.latchPeerEnd).cnt = s.cnt ∧
    (s.latchPeerEnd).mem = s.mem ∧ (s.latchPeerEnd).sndImg = s.sndImg ∧ (s.latchPeerEnd).sndLen = s.sndLen ∧
    (s.latchPeerEnd).sndId = s.sndId ∧ (s.latchPeerEnd).sndFinal = s.sndFinal ∧
    (s.latchPeerEnd).attempts = s.attempts ∧ (s.latchPeerEnd).rxMiss = s.rxMiss ∧ (s.latchPeerEnd).win = s.win ∧
    (s.latchPeerEnd).winN = s.winN ∧ (s.latchPeerEnd).huntCnt = s.huntCnt ∧ (s.latchPeerEnd).cand = s.cand ∧
    (s.latchPeerEnd).candN = s.candN ∧ (s.latchPeerEnd).candPl = s.candPl ∧ (s.latchPeerEnd).rxr = s.rxr ∧
    (s.latchPeerEnd).txOwner = s.txOwner ∧ (s.latchPeerEnd).txPos = s.txPos ∧ (s.latchPeerEnd).ackImg = s.ackImg ∧
    (s.latchPeerEnd).ackReq = s.ackReq ∧ (s.latchPeerEnd).sndReq = s.sndReq ∧ (s.latchPeerEnd).ackTmr = s.ackTmr ∧
    (s.latchPeerEnd).rxTmr = s.rxTmr ∧ (s.latchPeerEnd).stallTmr = s.stallTmr ∧
    (s.latchPeerEnd).streamClose = s.streamClose ∧ (s.latchPeerEnd).busRdata = s.busRdata ∧
    (s.latchPeerEnd).rxStream = s.rxStream ∧ (s.latchPeerEnd).txStream = s.txStream ∧
    (s.latchPeerEnd).agenda = s.agenda ∧ (s.latchPeerEnd).draws = s.draws ∧ (s.latchPeerEnd).epoch = s.epoch :=
  ⟨rfl, rfl, rfl, rfl, rfl, rfl, rfl, rfl, rfl, rfl, rfl, rfl, rfl, rfl, rfl, rfl, rfl, rfl, rfl, rfl, rfl, rfl, rfl, rfl, rfl, rfl, rfl, rfl, rfl, rfl, rfl, rfl, rfl, rfl, rfl, rfl, rfl, rfl, rfl, rfl, rfl, rfl, rfl, rfl, rfl⟩

/-- Fields after a W1C write. -/
@[simp] theorem State.clearStatus_fields (s : State) (v : Word) :
    (s.clearStatus v).cfg = s.cfg ∧ (s.clearStatus v).ls = s.ls ∧ (s.clearStatus v).snd = s.snd ∧
    (s.clearStatus v).dsp = s.dsp ∧ (s.clearStatus v).des = s.des ∧ (s.clearStatus v).ser = s.ser ∧
    (s.clearStatus v).txDone = (s.txDone && !v.getLsbD 1) ∧ (s.clearStatus v).txOk = s.txOk ∧
    (s.clearStatus v).fatal = s.fatal ∧ (s.clearStatus v).fatalCause = s.fatalCause ∧
    (s.clearStatus v).cmdErr = (s.cmdErr && !v.getLsbD 9) ∧ (s.clearStatus v).busErr = (s.busErr && !v.getLsbD 10) ∧
    (s.clearStatus v).txLen = s.txLen ∧ (s.clearStatus v).irqEn = s.irqEn ∧ (s.clearStatus v).lastErr = s.lastErr ∧
    (s.clearStatus v).cnt = s.cnt ∧ (s.clearStatus v).mem = s.mem ∧ (s.clearStatus v).sndImg = s.sndImg ∧
    (s.clearStatus v).sndLen = s.sndLen ∧ (s.clearStatus v).sndId = s.sndId ∧
    (s.clearStatus v).sndFinal = s.sndFinal ∧ (s.clearStatus v).attempts = s.attempts ∧
    (s.clearStatus v).rxMiss = s.rxMiss ∧ (s.clearStatus v).win = s.win ∧ (s.clearStatus v).winN = s.winN ∧
    (s.clearStatus v).huntCnt = s.huntCnt ∧ (s.clearStatus v).cand = s.cand ∧ (s.clearStatus v).candN = s.candN ∧
    (s.clearStatus v).candPl = s.candPl ∧ (s.clearStatus v).rxr = s.rxr ∧ (s.clearStatus v).txOwner = s.txOwner ∧
    (s.clearStatus v).txPos = s.txPos ∧ (s.clearStatus v).ackImg = s.ackImg ∧ (s.clearStatus v).ackReq = s.ackReq ∧
    (s.clearStatus v).sndReq = s.sndReq ∧ (s.clearStatus v).ackTmr = s.ackTmr ∧ (s.clearStatus v).rxTmr = s.rxTmr ∧
    (s.clearStatus v).stallTmr = s.stallTmr ∧ (s.clearStatus v).streamClose = s.streamClose ∧
    (s.clearStatus v).busRdata = s.busRdata ∧ (s.clearStatus v).rxStream = s.rxStream ∧
    (s.clearStatus v).txStream = s.txStream ∧ (s.clearStatus v).agenda = s.agenda ∧
    (s.clearStatus v).draws = s.draws ∧ (s.clearStatus v).epoch = s.epoch :=
  ⟨rfl, rfl, rfl, rfl, rfl, rfl, rfl, rfl, rfl, rfl, rfl, rfl, rfl, rfl, rfl, rfl, rfl, rfl, rfl, rfl, rfl, rfl, rfl, rfl, rfl, rfl, rfl, rfl, rfl, rfl, rfl, rfl, rfl, rfl, rfl, rfl, rfl, rfl, rfl, rfl, rfl, rfl, rfl, rfl, rfl⟩

end Sys2Proof.Machine
end

