-- ==== Sys2Proof/Laws/Invariant.lean ====
section
/-! SUPPORT. What each unit's part of the invariant depends on: a transition that leaves those fields alone keeps that
part, so a proof about a transition names only the parts it touches.
-/

namespace Sys2Proof.Safety

open Sys2Proof.Machine

/-- The buffers' part rests on memory and the parameters. -/
theorem MemInv.congr {s t : State} (h : MemInv s) (hm : t.mem = s.mem) (hc : t.cfg = s.cfg) : MemInv t :=
  ⟨by rw [hm]; exact h.canonical, by rw [hm, hc]; exact h.window⟩

/-- The fatal part, for a transition of a block that runs and goes on running. -/
theorem FatalInv.of_running {s t : State} (h : FatalInv s) (hs : s.fatal = false) (h1 : t.snd ≠ .halt)
    (h2 : t.dsp ≠ .halt) (h3 : t.fatal = s.fatal) (h4 : t.fatalCause = s.fatalCause)
    (h5 : t.streamClose = s.streamClose) : FatalInv t := by
  obtain ⟨a, b, c, d, e⟩ := h
  constructor <;> simp_all

/-- In a running block both engines run. -/
theorem FatalInv.running {s : State} (h : FatalInv s) (hs : s.fatal = false) : s.snd ≠ .halt ∧ s.dsp ≠ .halt :=
  ⟨fun h' => by simp [h.snd_halt.mp h'] at hs, fun h' => by simp [h.dsp_halt.mp h'] at hs⟩

/-- What the serializer's part rests on. -/
theorem SerInv.congr {s t : State} (h : SerInv s) (h0 : t.cfg = s.cfg) (h1 : t.txOwner = s.txOwner)
    (h2 : t.ser = s.ser) (h3 : t.sndReq = s.sndReq) (h4 : t.ackReq = s.ackReq) (h5 : t.txPos = s.txPos)
    (h6 : t.sndLen = s.sndLen) (h7 : t.sndImg = s.sndImg) (h8 : t.ackImg = s.ackImg) (h9 : t.txStream = s.txStream)
    (h10 : t.stallTmr = s.stallTmr) (h11 : (t.snd = .send ∨ t.snd = .reset) ↔ (s.snd = .send ∨ s.snd = .reset))
    (h12 : t.dsp = .ack ↔ s.dsp = .ack) : SerInv t := by
  obtain ⟨a1, a2, a3, a4, a5, a6, a7, a8, a9⟩ := h
  have hi : t.txImage = s.txImage := by simp [State.txImage, h1, h7, h8]
  constructor <;> simp only [h0, h1, h2, h3, h4, h5, h6, h9, h10, h11, h12, hi] <;> assumption

/-- What the sender's part rests on; an awaited ACK may have come. -/
theorem SndInv.congr {s t : State} (h : SndInv s) (h0 : t.cfg = s.cfg) (h1 : t.snd = s.snd)
    (h2 : t.attempts = s.attempts) (h3 : t.sndImg = s.sndImg) (h4 : t.sndLen = s.sndLen) (h5 : t.sndId = s.sndId)
    (h6 : t.sndFinal = s.sndFinal) (h7 : t.ls.nextSendId = s.ls.nextSendId) (h8 : t.ls.outId = s.ls.outId)
    (h9 : t.ls.awaitAck = s.ls.awaitAck ∨ t.ls.awaitAck = false) (h10 : t.ls.localEnd = s.ls.localEnd)
    (h11 : t.ackTmr = s.ackTmr) : SndInv t := by
  obtain ⟨a1, a2, a3, a4, a5, a6, a7, a8, a9, a10, a11⟩ := h
  constructor <;> simp only [h0, h1, h2, h3, h4, h5, h6, h7, h8, h10, h11] <;> try assumption
  intro hi
  rcases h9 with h | h
  · rw [h]; exact a10 hi
  · exact h

/-- What the dispatcher's part rests on; delivered data may have been released. -/
theorem DspInv.congr {s t : State} (h : DspInv s) (h0 : t.cfg = s.cfg) (h1 : t.dsp = s.dsp)
    (h2 : t.rxMiss = s.rxMiss) (h3 : t.ackImg = s.ackImg) (h4 : t.ls.peerEnd = s.ls.peerEnd)
    (h5 : s.dsp = .done → t.ls.localEnd = s.ls.localEnd)
    (h6 : t.ls.newData = s.ls.newData ∨ t.ls.newData = false) (h7 : t.ls.lrValid = s.ls.lrValid)
    (h8 : t.ls.rxLen = s.ls.rxLen) : DspInv t := by
  obtain ⟨a1, a2, a3, a4, a5, a6, a7, a8⟩ := h
  constructor <;> simp only [h0, h1, h2, h3, h4, h7, h8] <;> try assumption
  · intro hd; rw [h5 hd]; exact a4 hd
  · intro hr
    rcases h6 with h | h
    · rw [h] at hr; exact a7 hr
    · exact a7 (hr.imp_left fun hn => by simp [h] at hn)

/-- What the deserializer's part rests on. -/
theorem DesInv.congr {s t : State} (h : DesInv s) (h0 : t.cfg = s.cfg) (h1 : t.rxr = s.rxr) (h2 : t.dsp = s.dsp)
    (h3 : t.rxTmr = s.rxTmr) (h4 : t.des = s.des) (h5 : t.winN = s.winN) (h6 : t.win = s.win)
    (h7 : t.huntCnt = s.huntCnt) (h8 : t.cand = s.cand) (h9 : t.candN = s.candN) (h10 : t.candPl = s.candPl) :
    DesInv t := by
  obtain ⟨a1, a2, a3, a4, a5, a6, a7⟩ := h
  constructor <;> simp only [h0, h1, h2, h3, h4, h5, h6, h7, h8, h9, h10] <;> assumption

/-- A dispatcher that receives nothing, with an empty slot. -/
theorem DesInv.of_stopped {t : State} (h1 : t.rxr = .empty) (h2 : t.dsp ≠ .recv) : DesInv t := by
  constructor <;> simp_all

/-- A round that has just started (R170). -/
theorem DesInv.of_fresh {t : State} (h1 : t.rxr = .empty) (h2 : t.des = .hunt)
    (h3 : t.rxTmr = some t.cfg.rxTimeout) (h4 : t.winN = 0) (h5 : t.huntCnt = 0) : DesInv t := by
  constructor <;> simp_all [huntLimit, frameMax, hdrLen]

/-- A round that has just ended. -/
theorem DesInv.of_result {t : State} (h1 : t.rxr ≠ .empty) (h2 : t.dsp = .recv)
    (h3 : ∀ f, t.rxr = .frame f → frameOk t.cfg f) (h4 : ∃ n, t.rxTmr = some n ∧ n ≤ t.cfg.rxTimeout) : DesInv t := by
  constructor <;> simp_all

/-- A frame that passed the validator (R176 to R179) is one the slot may hold. -/
theorem frameOk_of_validate {img : List Byte} {f : Frame} {p : Params} (h : validate img = .ok f)
    (hl : hdrLen + (be16 img 10).toNat ≤ img.length) (hp : (be16 img 10).toNat ≤ p.maxPayload) : frameOk p f := by
  unfold validate at h
  simp only at h
  split at h
  · cases h
  split at h
  · cases h
  split at h
  · cases h
  next _ hk hi =>
  cases h
  refine ⟨?_, ?_, ?_, hp⟩
  · cases hf : Kind.ofFlags (byteAt img 14) with
    | none => exact absurd hf hk
    | some k => exact ⟨k, rfl⟩
  · by_contra hn
    simp only [not_or] at hn
    exact hi ⟨hn.1, hn.2.1, hn.2.2⟩
  · simp only [List.length_take, List.length_drop]
    omega

end Sys2Proof.Safety
end

