-- ==== Sys2Proof/Laws/Memory.lean ====
section
/-! SUPPORT. The two payload buffers as a list of cells: what a read gives after a write, that every write keeps the
canonical form, and that the canonical form makes equal memories equal data.
-/

namespace Sys2Proof.Machine

/-! ### One byte -/

/-- The byte just written is read back. -/
@[simp] theorem Memory.read_write_same (m : Memory) (a : Nat) (b : Byte) :
    Memory.read (Memory.write m a b) a = some b := by
  induction m with
  | nil => simp [Memory.write, Memory.read]
  | cons c m ih =>
    obtain ⟨k, v⟩ := c
    simp only [Memory.write]
    split
    · simp [Memory.read]
    · split
      · simp [Memory.read]
      · next h1 h2 => simp [Memory.read, h2, ih]

/-- A write leaves every other place alone. -/
theorem Memory.read_write_other (m : Memory) (a c : Nat) (b : Byte) (h : c ≠ a) :
    Memory.read (Memory.write m a b) c = Memory.read m c := by
  induction m with
  | nil => simp [Memory.write, Memory.read, h]
  | cons x m ih =>
    obtain ⟨k, v⟩ := x
    simp only [Memory.write]
    split
    · simp [Memory.read, h]
    · split
      · next h1 h2 => subst h2; simp [Memory.read, h]
      · simp [Memory.read, ih]

/-- The cells after a write: the new one and old ones. -/
theorem Memory.mem_write {m : Memory} {a : Nat} {b : Byte} {c : Host.Cell} (h : c ∈ Memory.write m a b) :
    c = (a, b) ∨ c ∈ m := by
  induction m with
  | nil => simpa [Memory.write] using h
  | cons x m ih =>
    obtain ⟨k, v⟩ := x
    simp only [Memory.write] at h
    split at h
    · simpa using h
    · split at h
      · exact (List.mem_cons.mp h).imp_right (List.mem_cons_of_mem _)
      · rcases List.mem_cons.mp h with h | h
        · exact .inr (h ▸ List.mem_cons_self)
        · exact (ih h).imp_right (List.mem_cons_of_mem _)

/-- A write keeps the canonical form. -/
theorem Memory.write_wf {m : Memory} (a : Nat) (b : Byte) (h : Memory.Wf m) : Memory.Wf (Memory.write m a b) := by
  induction m with
  | nil => simp [Memory.write]
  | cons x m ih =>
    obtain ⟨k, v⟩ := x
    obtain ⟨hk, hm⟩ := List.pairwise_cons.mp h
    simp only [Memory.write]
    split
    · next h1 =>
      refine List.pairwise_cons.mpr ⟨fun y hy => ?_, h⟩
      rcases List.mem_cons.mp hy with rfl | hy
      · exact h1
      · have := hk y hy
        simp only at this ⊢
        omega
    · split
      · next h1 h2 => subst h2; exact List.pairwise_cons.mpr ⟨hk, hm⟩
      · next h1 h2 =>
        refine List.pairwise_cons.mpr ⟨fun y hy => ?_, ih hm⟩
        rcases Memory.mem_write hy with rfl | hy
        · simp only; omega
        · exact hk y hy

/-! ### A run of bytes, one in each host word -/

/-- A run of writes keeps the canonical form. -/
theorem Memory.writeRun_wf {m : Memory} (a : Nat) (d : List Byte) (h : Memory.Wf m) :
    Memory.Wf (Memory.writeRun m a d) := by
  induction d generalizing m a with
  | nil => exact h
  | cons b d ih => exact ih (a + 4) (Memory.write_wf a b h)

/-- Places outside the run keep their bytes. -/
theorem Memory.read_writeRun_other (m : Memory) (a c : Nat) (d : List Byte) (h : ∀ j, j < d.length → c ≠ a + 4 * j) :
    Memory.read (Memory.writeRun m a d) c = Memory.read m c := by
  induction d generalizing m a with
  | nil => rfl
  | cons b d ih =>
    rw [Memory.writeRun, ih]
    · exact Memory.read_write_other _ _ _ _ (by simpa using h 0 (by simp))
    · intro j hj
      have := h (j + 1) (by simpa using hj)
      omega

/-- Place `j` of the run holds byte `j`. -/
theorem Memory.read_writeRun (m : Memory) (a : Nat) (d : List Byte) (j : Nat) (h : j < d.length) :
    Memory.read (Memory.writeRun m a d) (a + 4 * j) = some d[j] := by
  induction d generalizing m a j with
  | nil => simp at h
  | cons b d ih =>
    rw [Memory.writeRun]
    cases j with
    | zero =>
      rw [Memory.read_writeRun_other _ _ _ _ (fun i _ => by omega)]
      simp
    | succ j =>
      have := ih (Memory.write m a b) (a + 4) j (by simpa using h)
      rw [show a + 4 * (j + 1) = a + 4 + 4 * j by omega]
      simpa using this

/-! ### The canonical form -/

/-- An address below every listed one is unlisted. -/
theorem Memory.read_below {m : Memory} {a : Nat} (h : ∀ c ∈ m, a < c.1) : Memory.read m a = none := by
  induction m with
  | nil => rfl
  | cons x m ih =>
    obtain ⟨k, v⟩ := x
    have := h (k, v) List.mem_cons_self
    simp only at this
    rw [Memory.read, if_neg (by omega)]
    exact ih fun c hc => h c (List.mem_cons_of_mem _ hc)

/-- Canonical memories that read alike at every address are the same list. -/
theorem Memory.ext_of_wf {m n : Memory} (hm : Memory.Wf m) (hn : Memory.Wf n)
    (h : ∀ a, Memory.read m a = Memory.read n a) : m = n := by
  induction m generalizing n with
  | nil =>
    cases n with
    | nil => rfl
    | cons y n => simpa [Memory.read] using h y.1
  | cons x m ih =>
    cases n with
    | nil => simpa [Memory.read] using h x.1
    | cons y n =>
      obtain ⟨k, v⟩ := x
      obtain ⟨l, w⟩ := y
      obtain ⟨hk, hm'⟩ := List.pairwise_cons.mp hm
      obtain ⟨hl, hn'⟩ := List.pairwise_cons.mp hn
      simp only at hk hl
      have hkl : k = l := by
        rcases Nat.lt_trichotomy k l with hlt | heq | hgt
        · have := h k
          rw [Memory.read, if_pos rfl, Memory.read, if_neg (by omega),
            Memory.read_below fun c hc => by have := hl c hc; omega] at this
          simp at this
        · exact heq
        · have := h l
          rw [Memory.read, if_neg (by omega), Memory.read_below fun c hc => by have := hk c hc; omega,
            Memory.read, if_pos rfl] at this
          simp at this
      subst hkl
      have hvw : v = w := by simpa [Memory.read] using h k
      subst hvw
      rw [ih hm' hn' fun a => ?_]
      rcases Nat.lt_or_ge k a with ha | ha
      · have := h a
        rwa [Memory.read, if_neg (by omega), Memory.read, if_neg (by omega)] at this
      · rw [Memory.read_below fun c hc => by have := hk c hc; omega,
          Memory.read_below fun c hc => by have := hl c hc; omega]

/-- Reset lists no byte, so its memory is canonical. -/
theorem State.reset_mem_wf : Memory.Wf State.reset.mem := List.Pairwise.nil

/-! ### The bytes of State -/

/-- What `byteOf` depends on. -/
theorem State.byteOf_congr {s t : State} (hm : t.mem = s.mem) (he : t.epoch = s.epoch) (a : Nat) :
    t.byteOf a = s.byteOf a := by
  simp [State.byteOf, hm, he]

/-- One byte after a write. -/
theorem State.byteOf_write (s : State) (m : Memory) (a c : Nat) (b : Byte) (h : m = Memory.write s.mem a b) :
    ({ s with mem := m } : State).byteOf c = if c = a then b else s.byteOf c := by
  subst h
  simp only [State.byteOf]
  split
  · next h => subst h; simp
  · next h => rw [Memory.read_write_other _ _ _ _ h]

/-- The two buffers never share a place. -/
theorem txBufAddr_ne_rxBufAddr {i j : Nat} (h : i < 4096) : txBufAddr i ≠ rxBufAddr j := by
  simp only [txBufAddr, rxBufAddr]; omega

/-- Places of one buffer differ. -/
theorem rxBufAddr_inj {i j : Nat} (h : rxBufAddr i = rxBufAddr j) : i = j := by
  simp only [rxBufAddr] at h; omega

end Sys2Proof.Machine
end

