-- ==== Sys2Proof/Laws/PerInstr.lean ====
section
/-! SUPPORT. A law of every instruction as syntax: the size of its encoding (R90, R98, R106). -/

namespace Sys2Proof.Laws.CodeSize

open Sys2Proof

/-- A well-formed frame encodes to 15 … `FRAME_MAX` bytes, a command to a word whose reserved bits are 0. -/
def Statement (i : Instr) : Prop :=
  ∀ p : Params, i.wf p = true → match encode p i with
    | .frame img => 15 ≤ img.length ∧ img.length ≤ frameMax p
    | .cmd w => w.extractLsb' 10 22 = 0#22

/-- The size of a frame with an admitted payload. -/
theorem frame_size (p : Params) (id : Half) (f : Byte) (d : List Byte) (h : d.length ≤ p.maxPayload) :
    15 ≤ (frameImage p id f d).length ∧ (frameImage p id f d).length ≤ frameMax p := by
  simp only [frameImage_length, frameMax, hdrLen]
  omega

theorem dataFrame (id : Half) (d : List Byte) : Statement (.dataFrame id d) := fun p h =>
  frame_size p id _ d (by simp [Instr.wf, Instr.lengthOk] at h; exact h.2)

theorem ackFrame (id : Half) (d : List Byte) : Statement (.ackFrame id d) := fun p h =>
  frame_size p id _ d (by simp [Instr.wf, Instr.lengthOk] at h; exact h.2)

theorem endFrame (id : Half) (d : List Byte) : Statement (.endFrame id d) := fun p h =>
  frame_size p id _ d (by simp [Instr.wf, Instr.lengthOk] at h; exact h.2)

theorem resetFrame (id : Half) (d : List Byte) : Statement (.resetFrame id d) := fun p h =>
  frame_size p id _ d (by simp [Instr.wf, Instr.lengthOk] at h; exact h.2)

theorem nop : Statement .nop := fun _ _ => by
  change BitVec.extractLsb' 10 22 0x00000000#32 = 0#22
  decide

theorem send (final nl : Bool) : Statement (.send final nl) := fun _ _ => by
  change BitVec.extractLsb' 10 22 (sendWord final nl) = 0#22
  cases final <;> cases nl <;> decide

theorem dack : Statement .dack := fun _ _ => by
  change BitVec.extractLsb' 10 22 0x00000002#32 = 0#22
  decide

theorem startRx : Statement .startRx := fun _ _ => by
  change BitVec.extractLsb' 10 22 0x00000003#32 = 0#22
  decide

end Sys2Proof.Laws.CodeSize
end

