-- ==== Sys2Proof/Laws/Steps.lean ====
section
/-! SUPPORT. What one step can be: a chosen transition, fired or not, the address map place by place, what each shared
operation writes, and steps in a row.
-/

namespace Sys2Proof.Machine

open Sys2Proof.Safety

/-! ### The chosen transition -/

/-- A step whose transition is chosen: what the transition comes to in the state itself. -/
theorem step_chosen (e : Event) (s : State) :
    step (chosen e s) = match fetch e s with
      | .run i => exec i s
      | .done r => r := rfl

/-- A chosen transition whose guard does not hold spends the choice only. -/
theorem step_disabled {e : Event} {s : State} (h : enabled e s = false) : step (chosen e s) = .next s := by
  simp [step_chosen, fetch, h]

/-- A chosen transition whose guard holds fires. -/
theorem step_enabled {e : Event} {s : State} (h : enabled e s = true) :
    step (chosen e s) = match fire e s with
      | .run i => exec i s
      | .done r => r := by
  simp [step_chosen, fetch, h]

/-- The deserializer's readiness. -/
theorem State.rxReady_iff (s : State) : s.rxReady = true ↔ s.dsp = .recv ∧ s.rxr = .empty := by
  simp [State.rxReady]

/-! ### Steps in a row -/

/-- No step. -/
@[simp] theorem runs_zero (s : State) : runs 0 s = .next s := rfl

/-- The first of several steps. -/
theorem runs_succ (n : Nat) (s t : State) (h : step s = .next t) : runs (n + 1) s = runs n t := by
  have h' : Sys2Proof.core.step s = .next t := h
  simp only [runs, Host.Core.run, h']
  rfl

/-- A run that answers a state began with a step that did. -/
theorem step_of_runs {n : Nat} {s t : State} (h : runs (n + 1) s = .next t) : ∃ u, step s = .next u := by
  simp only [runs, Host.Core.run] at h
  split at h
  · next u hu => exact ⟨u, hu⟩
  · cases h
  · cases h

/-- The first of several chosen transitions. -/
theorem runs_choosing (n : Nat) (e : Event) (es : List Event) (s t : State)
    (h : step (chosen e (choosing es s)) = .next t) : runs (n + 1) (choosing (e :: es) s) = runs n t :=
  runs_succ n _ t h

/-- Two runs, one after the other. -/
theorem runs_add (m n : Nat) (s t : State) (h : runs m s = .next t) : runs (m + n) s = runs n t := by
  induction m generalizing s with
  | zero =>
    cases h
    rw [Nat.zero_add]
  | succ m ih =>
    rw [Nat.succ_add]
    obtain ⟨u, hu⟩ := step_of_runs h
    rw [runs_succ _ _ u hu] at h ⊢
    exact ih u h

/-! ### The address map (R80, R81) -/

/-- An address that is no multiple of 4. -/
theorem target_misaligned (p : Params) (a : HostAddr) (h : a.toNat % 4 ≠ 0) : target p a = .misaligned := by
  simp [target, h]

/-- The place of `TXBUF[i]`. -/
theorem target_txBuf (p : Params) (i : Nat) (hi : i < p.maxPayload) (hp : p.maxPayload ≤ 4096) :
    target p (BitVec.ofNat 16 (0x4000 + 4 * i)) = .txBuf i := by
  have hn : (BitVec.ofNat 16 (0x4000 + 4 * i)).toNat = 0x4000 + 4 * i := by
    rw [BitVec.toNat_ofNat]; exact Nat.mod_eq_of_lt (by omega)
  simp only [target, hn]
  rw [if_neg (by omega), if_neg (by omega), if_neg (by omega), if_pos (by omega), if_pos (by omega)]
  congr 1
  omega

/-- The place of `RXBUF[i]`. -/
theorem target_rxBuf (p : Params) (i : Nat) (hi : i < p.maxPayload) (hp : p.maxPayload ≤ 4096) :
    target p (BitVec.ofNat 16 (0x8000 + 4 * i)) = .rxBuf i := by
  have hn : (BitVec.ofNat 16 (0x8000 + 4 * i)).toNat = 0x8000 + 4 * i := by
    rw [BitVec.toNat_ofNat]; exact Nat.mod_eq_of_lt (by omega)
  simp only [target, hn]
  rw [if_neg (by omega), if_neg (by omega), if_neg (by omega), if_neg (by omega), if_pos (by omega),
    if_pos (by omega)]
  congr 1
  omega

/-- What an address that names a place of `TXBUF` says of its index. -/
theorem target_eq_txBuf {p : Params} {a : HostAddr} {i : Nat} (h : target p a = .txBuf i) :
    i < p.maxPayload ∧ i < 4096 := by
  unfold target at h
  simp only at h
  split at h
  · cases h
  split at h
  · unfold regAt at h; split at h <;> cases h
  split at h
  · cases h
  split at h
  · split at h
    · cases h; omega
    · cases h
  split at h
  · split at h <;> cases h
  · cases h

/-- Only 0x0000 names `CMD`, and only 0x0004 names `STATUS`. -/
theorem target_eq_cmd_or_status {p : Params} {a : HostAddr} :
    (target p a = .cmd → a = 0x0000#16) ∧ (target p a = .status → a = 0x0004#16) := by
  have key : ∀ k : Nat, a.toNat % 4 = 0 → a.toNat / 4 = k → a = BitVec.ofNat 16 (4 * k) := fun k h1 h2 => by
    have := a.isLt
    apply BitVec.eq_of_toNat_eq
    simp only [BitVec.toNat_ofNat]
    omega
  constructor <;> intro h <;> unfold target at h <;> simp only at h <;> split at h <;>
    try cases h
  all_goals
    next h4 =>
    split at h
    · unfold regAt at h
      split at h <;> first | exact key _ (by omega) (by assumption) | cases h
    · repeat' split at h
      all_goals cases h

/-- Where the map names no place: the addresses R80 and R81 leave out. -/
theorem target_refused {p : Params} {a : HostAddr} (h : target p a = .misaligned ∨ target p a = .unmapped) :
    a.toNat % 4 ≠ 0 ∨ (0x0044 ≤ a.toNat ∧ a.toNat < 0x4000) ∨
    (0x4000 + 4 * p.maxPayload ≤ a.toNat ∧ a.toNat < 0x8000) ∨
    (0x8000 + 4 * p.maxPayload ≤ a.toNat ∧ a.toNat < 0xC000) ∨ 0xC000 ≤ a.toNat := by
  unfold target at h
  simp only at h
  split at h
  · exact .inl ‹_›
  split at h
  · have hk : a.toNat / 4 ≤ 16 := by omega
    interval_cases a.toNat / 4 <;> simp [regAt] at h
  split at h
  · omega
  split at h
  · split at h
    · simp at h
    · omega
  split at h
  · split at h
    · simp at h
    · omega
  · omega

/-- A word that is no command (R107). -/
theorem decodeCmd_error {v : Word} {x : DecodeError} (h : decodeCmd v = .error x) :
    4 ≤ (v.extractLsb' 0 8).toNat ∨ v.extractLsb' 10 22 ≠ 0 ∨ (v.extractLsb' 0 8 ≠ 1 ∧ v.extractLsb' 8 2 ≠ 0) := by
  unfold decodeCmd at h
  simp only at h
  split at h
  · next h3 => rw [BitVec.lt_def] at h3; exact .inl h3
  split at h
  · exact .inr (.inl ‹_›)
  split at h
  · exact .inr (.inr ‹_›)
  repeat' split at h
  all_goals cases h

/-! ### What the shared operations can do -/

/-- `round_end()` (R239): its three ends. -/
theorem State.roundEnd_cases (s : State) :
    (s.ls.peerEnd = true ∧ s.ls.localEnd = true ∧ s.roundEnd = { s with dsp := .done }) ∨
    (¬(s.ls.peerEnd = true ∧ s.ls.localEnd = true) ∧ s.rxMiss.toNat = s.cfg.maxAttempts ∧
      s.roundEnd = { s with dsp := .expired }) ∨
    (¬(s.ls.peerEnd = true ∧ s.ls.localEnd = true) ∧ s.rxMiss.toNat ≠ s.cfg.maxAttempts ∧
      s.roundEnd = State.roundStart { s with dsp := .recv }) := by
  unfold State.roundEnd
  split
  · next h => exact .inl ⟨h.1, h.2, rfl⟩
  · next h =>
    split
    · next hm => exact .inr (.inl ⟨h, hm, rfl⟩)
    · next hm => exact .inr (.inr ⟨h, hm, rfl⟩)

/-- Nothing outside the dispatcher and its deserializer changes at a round's end. -/
theorem State.roundEnd_only (s : State) : ∃ dsp des winN huntCnt candN candPl rxr rxTmr,
    s.roundEnd = { s with
      dsp := dsp, des := des, winN := winN, huntCnt := huntCnt, candN := candN, candPl := candPl, rxr := rxr,
      rxTmr := rxTmr } := by
  rcases s.roundEnd_cases with ⟨_, _, h⟩ | ⟨_, _, h⟩ | ⟨_, _, h⟩ <;> exact ⟨_, _, _, _, _, _, _, _, h⟩

/-- `validate()` writes the slot and nothing else (R176 to R182). -/
theorem State.validateCand_only (s : State) : ∃ r, s.validateCand = { s with rxr := r } := by
  unfold State.validateCand
  split <;> exact ⟨_, rfl⟩

/-- The window's transition writes the window and its two counts (R171). -/
theorem State.slideWin_only (s : State) (b : Byte) :
    ∃ w n c, s.slideWin b = { s with win := w, winN := n, huntCnt := c } := by
  unfold State.slideWin
  split <;> exact ⟨_, _, _, rfl⟩

/-- A byte taken writes the deserializer's registers and nothing else (R171, R173, R175). -/
theorem State.takeByte_only (s : State) (b : Byte) : ∃ des win winN huntCnt cand candN candPl rxr rxTmr,
    s.takeByte b = { s with
      des := des, win := win, winN := winN, huntCnt := huntCnt, cand := cand, candN := candN, candPl := candPl,
      rxr := rxr, rxTmr := rxTmr } := by
  unfold State.takeByte
  split
  · obtain ⟨w, n, c, e⟩ := s.armRx.slideWin_only b
    simp only [State.huntByte, e]
    split
    · exact ⟨_, _, _, _, _, _, _, _, _, rfl⟩
    · split <;> exact ⟨_, _, _, _, _, _, _, _, _, rfl⟩
  · simp only [State.hdrByte]
    split
    · split
      · exact ⟨_, _, _, _, _, _, _, _, _, rfl⟩
      · split
        · obtain ⟨r, e⟩ := ({ s.pushCand b with candPl := be16 (s.pushCand b).cand 10 } : State).validateCand_only
          rw [e]
          exact ⟨_, _, _, _, _, _, _, _, _, rfl⟩
        · exact ⟨_, _, _, _, _, _, _, _, _, rfl⟩
    · exact ⟨_, _, _, _, _, _, _, _, _, rfl⟩
  · simp only [State.payByte]
    split
    · obtain ⟨r, e⟩ := (s.pushCand b).validateCand_only
      rw [e]
      exact ⟨_, _, _, _, _, _, _, _, _, rfl⟩
    · exact ⟨_, _, _, _, _, _, _, _, _, rfl⟩

/-- ATTEMPT_FAIL (R204): another attempt queued, or the RESET image. -/
theorem State.attemptFail_cases (s : State) :
    ((s.attempts + 1).toNat = s.cfg.maxAttempts ∧
      s.attemptFail = State.giveUp { s with attempts := s.attempts + 1 }) ∨
    ((s.attempts + 1).toNat ≠ s.cfg.maxAttempts ∧
      s.attemptFail = { s with
        attempts := s.attempts + 1, sndReq := true, cnt := { s.cnt with retx := bump s.cnt.retx } }) := by
  unfold State.attemptFail
  simp only
  split
  · next h => exact .inl ⟨h, rfl⟩
  · next h => exact .inr ⟨h, rfl⟩

/-- ACK_TIMEOUT (R206): another attempt queued, or the RESET image. -/
theorem State.ackTimeout_cases (s : State) :
    (s.attempts.toNat = s.cfg.maxAttempts ∧ s.ackTimeout = s.giveUp) ∨
    (s.attempts.toNat ≠ s.cfg.maxAttempts ∧
      s.ackTimeout = { s with
        sndReq := true, cnt := { s.cnt with retx := bump s.cnt.retx }, snd := .send }) := by
  unfold State.ackTimeout
  split
  · next h => exact .inl ⟨h, rfl⟩
  · next h => exact .inr ⟨h, rfl⟩

/-- TX_TAKE (R146), when it answers a next state: a byte more of the frame, or the frame's end for its owner. -/
theorem State.txTake_cases {s t : State} (h : s.txTake = .next t) :
    (s.txPos + 1 ≠ s.txFrameLen ∧ s.txOwner ≠ .none ∧ t = s.sendByte) ∨
    (s.txPos + 1 = s.txFrameLen ∧ ∃ u : State,
      u = s.sendByte.endFrame { s.cnt with txFrames := bump s.cnt.txFrames } ∧
      ((s.txOwner = .snd ∧ s.snd = .send ∧ t = u.attemptDone) ∨
       (s.txOwner = .snd ∧ s.snd = .reset ∧ t = u.raiseFatal .exhausted) ∨
       (s.txOwner = .dsp ∧ s.dsp = .ack ∧ t = u.roundEnd))) := by
  unfold State.txTake at h
  split at h
  · cases h
  · next ho =>
    split at h
    · next hp =>
      refine .inr ⟨hp, _, rfl, ?_⟩
      cases hown : s.txOwner with
      | none => exact absurd hown ho
      | snd =>
        rw [hown] at h
        simp only [State.completion, State.endFrame_fields, State.sendByte_fields] at h
        cases hs : s.snd <;> rw [hs] at h <;> simp only at h <;> cases h
        · exact .inl ⟨rfl, rfl, rfl⟩
        · exact .inr (.inl ⟨rfl, rfl, rfl⟩)
      | dsp =>
        rw [hown] at h
        simp only [State.completion, State.endFrame_fields, State.sendByte_fields] at h
        split at h
        · next hd => cases h; exact .inr (.inr ⟨rfl, hd, rfl⟩)
        · cases h
    · next hp => cases h; exact .inl ⟨hp, ho, rfl⟩

/-- TX_FAIL (R147), when it answers a next state: the frame's end for its owner. -/
theorem State.txFail_cases {s t : State} (h : s.txFail = .next t) :
    ∃ u : State, u = s.endFrame { s.cnt with txIoErr := bump s.cnt.txIoErr } ∧
      ((s.txOwner = .snd ∧ s.snd = .send ∧ t = u.attemptFail) ∨
       (s.txOwner = .snd ∧ s.snd = .reset ∧ t = u.raiseFatal .exhausted) ∨
       (s.txOwner = .dsp ∧ s.dsp = .ack ∧ t = u.roundEnd)) := by
  refine ⟨_, rfl, ?_⟩
  unfold State.txFail at h
  cases hown : s.txOwner with
  | none => rw [hown] at h; cases h
  | snd =>
    rw [hown] at h
    simp only [State.failure, State.endFrame_fields] at h
    cases hs : s.snd <;> rw [hs] at h <;> simp only at h <;> cases h
    · exact .inl ⟨rfl, rfl, rfl⟩
    · exact .inr (.inl ⟨rfl, rfl, rfl⟩)
  | dsp =>
    rw [hown] at h
    simp only [State.failure, State.endFrame_fields] at h
    split at h
    · next hd => cases h; exact .inr (.inr ⟨rfl, hd, rfl⟩)
    · cases h

/-- The words that are commands, one by one (R106, R260). -/
theorem decodeCmd_cases {v : Word} {i : Instr} (h : decodeCmd v = .ok i) : v.extractLsb' 10 22 = 0#22 ∧
    ((v.extractLsb' 0 8 = 0x00#8 ∧ v.extractLsb' 8 2 = 0#2 ∧ i = .nop) ∨
     (v.extractLsb' 0 8 = 0x01#8 ∧ i = .send (v.getLsbD 8) (v.getLsbD 9)) ∨
     (v.extractLsb' 0 8 = 0x02#8 ∧ v.extractLsb' 8 2 = 0#2 ∧ i = .dack) ∨
     (v.extractLsb' 0 8 = 0x03#8 ∧ v.extractLsb' 8 2 = 0#2 ∧ i = .startRx)) := by
  unfold decodeCmd at h
  simp only at h
  split at h
  · cases h
  next h3 =>
  split at h
  · cases h
  next hr =>
  refine ⟨not_not.mp hr, ?_⟩
  split at h
  · cases h
  next ha =>
  have ha' : v.extractLsb' 0 8 ≠ 0x01#8 → v.extractLsb' 8 2 = 0#2 := fun h1 => by
    by_contra h2; exact ha ⟨h1, h2⟩
  split at h
  · next h0 => cases h; exact .inl ⟨h0, ha' (by rw [h0]; decide), rfl⟩
  split at h
  · next h1 => cases h; exact .inr (.inl ⟨h1, rfl⟩)
  split at h
  · next h2 => cases h; exact .inr (.inr (.inl ⟨h2, ha' (by rw [h2]; decide), rfl⟩))
  next h0 h1 h2 =>
  cases h
  have h3' : v.extractLsb' 0 8 = 0x03#8 := by
    generalize v.extractLsb' 0 8 = x at h3 h0 h1 h2
    revert x
    decide
  exact .inr (.inr (.inr ⟨h3', ha' (by rw [h3']; decide), rfl⟩))

/-- A command word's instruction is well-formed for every choice of the parameters. -/
theorem decodeCmd_wf {v : Word} {i : Instr} (p : Params) (h : decodeCmd v = .ok i) : i.wf p = true := by
  rcases (decodeCmd_cases h).2 with ⟨_, _, rfl⟩ | ⟨_, rfl⟩ | ⟨_, _, rfl⟩ | ⟨_, _, rfl⟩ <;> rfl

/-! ### The meanings -/

/-- No instruction's meaning stops: in every state it answers a next state. -/
theorem exec_goes (i : Instr) (s : State) : ∃ t, exec i s = .next t := by
  cases i with
  | dataFrame id d => simp only [exec, execData, State.classify]; split <;> exact ⟨_, rfl⟩
  | ackFrame id d => simp only [exec, execAck, State.classify]; split <;> exact ⟨_, rfl⟩
  | endFrame id d => simp only [exec, execEnd, State.classify]; split <;> exact ⟨_, rfl⟩
  | resetFrame id d => simp only [exec, execReset, State.classify]; split <;> exact ⟨_, rfl⟩
  | nop => exact ⟨_, rfl⟩
  | send final nl => simp only [exec, execSend]; split <;> exact ⟨_, rfl⟩
  | dack => simp only [exec, execDack]; split <;> exact ⟨_, rfl⟩
  | startRx => simp only [exec, execStartRx]; split <;> exact ⟨_, rfl⟩

/-- When SEND is refused (R264). -/
theorem State.sendRefused_iff (s : State) (nl : Bool) : s.sendRefused nl = true ↔
    s.fatal = true ∨ s.snd ≠ .idle ∨ s.ls.localEnd = true ∨ s.cfg.maxPayload < s.txLen.toNat + nl.toNat := by
  simp only [State.sendRefused, Bool.or_eq_true, bne_iff_ne, decide_eq_true_iff, or_assoc]
  rfl

/-- When a frame is a duplicate (R234). -/
theorem State.isDuplicate_iff (s : State) (id : Half) :
    s.isDuplicate id = true ↔ s.ls.lrValid = true ∧ id = s.ls.lrId.setWidth 16 := by
  simp [State.isDuplicate, idField]

/-- What classifying a frame does before its arm leaves the tests of R233 to R237 as they were. -/
theorem State.classified_tests (s : State) (id : Half) :
    s.classified.isDuplicate id = s.isDuplicate id ∧ s.classified.cfg = s.cfg ∧ s.classified.ls = s.ls :=
  ⟨rfl, rfl, rfl⟩

end Sys2Proof.Machine
end

