-- ==== Sys2Proof/Tests/Slice0.lean ====
section
/-! SUPPORT. Tests of single steps with the spec's own values (spec/95_test_vectors.md, by vector name), smoke tests of
WellFormed, and for every statement of Certificates/Slice0/Obligations.lean that has hypotheses a witness that meets
them together.
-/

namespace Sys2Proof.Tests

open Sys2Proof Sys2Proof.Machine Sys2Proof.Safety

/-! ### Helpers -/

/-- The parameters of the test vectors. -/
abbrev vp : Params := Config.vectorParams

/-- The same with a short payload and few attempts. -/
abbrev small : Params := { vp with maxPayload := 2, maxAttempts := 2, rxTimeout := 2 }

/-- A block right after reset. -/
abbrev base : State := State.resetWith vp

/-- A block whose dispatcher receives, in a fresh round. -/
abbrev receiving : State := { base with dsp := .recv, rxTmr := some 1 }

/-- A block in the fatal state. -/
abbrev fatalBlock : State := base.raiseFatal .peerReset

/-- `DATA(0, "abc")` (V-FR-1). -/
abbrev dataAbc : List Byte := [0xdc, 0xc0, 0x23, 0xc2, 0xdc, 0xc0, 0x23, 0xc2, 0x9c, 0x32, 0x00, 0x03, 0x00, 0x00,
  0x00, 0x61, 0x62, 0x63]

/-- `ACK(0)` (V-FR-3). -/
abbrev ack0 : List Byte := [0xdc, 0xc0, 0x23, 0xc2, 0xdc, 0xc0, 0x23, 0xc2, 0x7e, 0xf9, 0x00, 0x00, 0x00, 0x00, 0x80]

/-- `RESET(0xFFFF)` (V-FR-7). -/
abbrev resetFFFF : List Byte := [0xdc, 0xc0, 0x23, 0xc2, 0xdc, 0xc0, 0x23, 0xc2, 0xde, 0xf9, 0x00, 0x00, 0xff, 0xff,
  0x20]

/-- A block whose unit `DATA(0, "abc")` is queued (V-SN-1). -/
abbrev sending : State := { base with
  snd := .send, sndImg := dataAbc, sndLen := 18, sndReq := true }

/-- A block whose unit is on the wire, `n` bytes taken. -/
abbrev onWire (n : Nat) : State := { sending with
  sndReq := false, ser := .busy, txOwner := .snd, txPos := n, stallTmr := some 0, txStream := dataAbc.take n }

/-- A block that waits for the ACK of id 0 after `n` attempts. -/
abbrev waiting (n : Nat) : State := { receiving with
  snd := .wait, sndImg := dataAbc, sndLen := 18, attempts := BitVec.ofNat 5 n, ackTmr := some 0
  ls := { LinkState.reset with awaitAck := true } }

/-- A block whose RESET frame is on the wire, `n` bytes taken. -/
abbrev resetOnWire (n : Nat) : State := { base with
  snd := .reset, sndImg := resetFFFF, sndLen := 15, attempts := 16, ser := .busy, txOwner := .snd, txPos := n
  stallTmr := some 0 }

/-- A block whose ACK frame is on the wire, `n` bytes taken. -/
abbrev ackOnWire (n : Nat) : State := { base with
  dsp := .ack, ackImg := ack0, ser := .busy, txOwner := .dsp, txPos := n, stallTmr := some 0 }

/-- A block in whose slot the frame waits. -/
abbrev holding (id : Half) (flags : Byte) (d : List Byte) : State := { receiving with
  rxr := .frame { id := id, flags := flags, length := BitVec.ofNat 16 d.length, payload := d } }

/-- The first 14 bytes of a frame with id 0 and the length field `hi`, `lo`. -/
abbrev header (hi lo : Byte) : List Byte :=
  [0xdc, 0xc0, 0x23, 0xc2, 0xdc, 0xc0, 0x23, 0xc2, 0x7e, 0xf9, hi, lo, 0x00, 0x00]

/-- A block that waits for the last byte of a 15-byte candidate. -/
abbrev lastByte (img : List Byte) : State := { receiving with
  des := .hdr, candN := 14, cand := img.take 14, rxStream := img.drop 14 }

/-- The result is a next state of which `f` holds. -/
def answers (r : Result) (f : State → Bool) : Bool :=
  match r with
  | .next t => f t
  | .fault _ => false
  | .refused _ => false

/-! ### WellFormed refuses ill-formed terms (R94, R95, R102) -/

theorem test_wf_data_id : (Instr.dataFrame 2 []).wf vp = false := by decide

theorem test_wf_ack_id : (Instr.ackFrame 2 []).wf vp = false := by decide

theorem test_wf_end_id : (Instr.endFrame 0xFFFF []).wf vp = false := by decide

theorem test_wf_data_length : (Instr.dataFrame 0 [1, 2, 3]).wf small = false := by decide

theorem test_wf_ack_length : (Instr.ackFrame 0 [1, 2, 3]).wf small = false := by decide

theorem test_wf_end_length : (Instr.endFrame 0 [1, 2, 3]).wf small = false := by decide

theorem test_wf_reset_length : (Instr.resetFrame 0 [1, 2, 3]).wf small = false := by decide

theorem test_wf_accepts : (Instr.dataFrame 1 [1, 2]).wf small = true ∧ (Instr.ackFrame 1 []).wf small = true ∧
    (Instr.endFrame 0 []).wf small = true ∧ (Instr.resetFrame 7 []).wf small = true ∧
    (Instr.send true true).wf small = true := by decide

/-! ### Encodings, bit by bit from the spec -/

/-- V-FR-1. -/
theorem test_decode_data : decode vp (.frame dataAbc) = .ok (.dataFrame 0 [0x61, 0x62, 0x63]) := by decide

/-- V-FR-11. -/
theorem test_decode_data_id1 : decode vp (.frame [0xdc, 0xc0, 0x23, 0xc2, 0xdc, 0xc0, 0x23, 0xc2, 0x2c, 0xb0, 0x00,
    0x05, 0x00, 0x01, 0x00, 0x68, 0x65, 0x6c, 0x6c, 0x6f]) = .ok (.dataFrame 1 [0x68, 0x65, 0x6c, 0x6c, 0x6f]) := by
  decide

/-- V-FR-3. -/
theorem test_decode_ack : decode vp (.frame ack0) = .ok (.ackFrame 0 []) := by decide

/-- V-FR-13. -/
theorem test_decode_end : decode vp (.frame [0xdc, 0xc0, 0x23, 0xc2, 0xdc, 0xc0, 0x23, 0xc2, 0x45, 0x04, 0x00, 0x03,
    0x00, 0x00, 0x40, 0x78, 0x79, 0x7a]) = .ok (.endFrame 0 [0x78, 0x79, 0x7a]) := by decide

/-- V-FR-7. -/
theorem test_decode_reset : decode vp (.frame resetFFFF) = .ok (.resetFrame 0xFFFF []) := by decide

/-- R106: the command words, `OP` in bits 7..0, `FINAL` in bit 8, `NL` in bit 9. -/
theorem test_decode_commands :
    decode vp (.cmd 0b00000000000000000000000000000000) = .ok .nop ∧
    decode vp (.cmd 0b00000000000000000000000000000001) = .ok (.send false false) ∧
    decode vp (.cmd 0b00000000000000000000000100000001) = .ok (.send true false) ∧
    decode vp (.cmd 0b00000000000000000000001000000001) = .ok (.send false true) ∧
    decode vp (.cmd 0b00000000000000000000001100000001) = .ok (.send true true) ∧
    decode vp (.cmd 0b00000000000000000000000000000010) = .ok .dack ∧
    decode vp (.cmd 0b00000000000000000000000000000011) = .ok .startRx := by decide

/-- V-RX-4, V-RX-5, V-RX-7, V-RX-8: the rejections, each by its cause. -/
theorem test_decode_rejects :
    decode vp (.frame [0xdc, 0xc0, 0x23, 0xc2, 0xdc, 0xc0, 0x23, 0xc2, 0xfe, 0xf9, 0x10, 0x01, 0x00, 0x00, 0x00])
      = .error (.reject .length) ∧
    decode vp (.frame (dataAbc.set 17 0x62)) = .error (.reject .checksum) ∧
    decode vp (.frame [0xdc, 0xc0, 0x23, 0xc2, 0xdc, 0xc0, 0x23, 0xc2, 0x3e, 0xf9, 0x00, 0x00, 0x00, 0x00, 0xc0])
      = .error (.reject .flags) ∧
    decode vp (.frame [0xdc, 0xc0, 0x23, 0xc2, 0xdc, 0xc0, 0x23, 0xc2, 0xfe, 0xf7, 0x00, 0x00, 0x00, 0x02, 0x00])
      = .error (.reject .id) := by decide

/-- V-HC-3, V-HC-5, V-HC-4: the illegal command words. -/
theorem test_decode_illegal_words : decode vp (.cmd 0x07) = .error .cmdOpcode ∧
    decode vp (.cmd 0x401) = .error .cmdReserved ∧ decode vp (.cmd 0x102) = .error .cmdArgument := by decide

/-- V-FR-10, V-FR-6. -/
theorem test_encode : encode vp (.dataFrame 1 [0xff, 0xff, 0xff, 0xff]) = .frame [0xdc, 0xc0, 0x23, 0xc2, 0xdc, 0xc0,
      0x23, 0xc2, 0xfe, 0xf4, 0x00, 0x04, 0x00, 0x01, 0x00, 0xff, 0xff, 0xff, 0xff] ∧
    encode vp (.endFrame 1 []) = .frame [0xdc, 0xc0, 0x23, 0xc2, 0xdc, 0xc0, 0x23, 0xc2, 0xbe, 0xf8, 0x00, 0x00, 0x00,
      0x01, 0x40] := by decide

/-- V-CK-1 to V-CK-9. -/
theorem test_cksum : cksum [] = 0xFFFF ∧ cksum [0x01] = 0xFEFF ∧ cksum [0xab] = 0x54FF ∧ cksum [0xff, 0xff] = 0x0000 ∧
    cksum [0x00, 0x00] = 0xFFFF ∧ cksum [0xff, 0xff, 0x00, 0x01] = 0xFFFE ∧
    cksum [0xff, 0xff, 0xff, 0xff, 0x00, 0x01] = 0xFFFE ∧ cksum [0x12, 0x34, 0x56, 0x78] = 0x9753 ∧
    cksum [0x00, 0x01, 0xf2, 0x03, 0xf4, 0xf5, 0xf6, 0xf7] = 0x220D := by decide

/-- V-CK-13: a stored 0xFFFF does not match a recomputed 0x0000. -/
theorem test_ckver_zero :
    ckver [0xdc, 0xc0, 0x23, 0xc2, 0xdc, 0xc0, 0x23, 0xc2, 0x00, 0x00, 0x00, 0x02, 0x00, 0x00, 0x00, 0xf7, 0xfe]
      = true ∧
    ckver [0xdc, 0xc0, 0x23, 0xc2, 0xdc, 0xc0, 0x23, 0xc2, 0xff, 0xff, 0x00, 0x02, 0x00, 0x00, 0x00, 0xf7, 0xfe]
      = false := by decide

/-! ### One step of each instruction -/

/-- V-DS-5. -/
theorem test_data_new : answers (exec (.dataFrame 0 [0x61, 0x62, 0x63]) receiving) (fun t =>
    t.ls.lrValid && t.ls.lrId == 0 && t.ls.rxLen == 3 && t.ls.newData && t.ackReq && t.dsp == .ack &&
    Memory.read t.mem 0x8000 == some 0x61 && Memory.read t.mem 0x8008 == some 0x63 && t.ackImg == ack0) = true := by
  decide

/-- V-DS-7: held off, no ACK, nothing recorded. -/
theorem test_data_overrun : answers
    (exec (.dataFrame 1 [0x64]) { receiving with ls := { LinkState.reset with lrValid := true, newData := true } })
    (fun t => t.cnt.overrun == 1 && !t.ackReq && t.ls.lrId == 0 && t.mem == [] && t.dsp == .recv) = true := by decide

/-- V-SN-3. -/
theorem test_ack_matched : answers (exec (.ackFrame 0 []) (waiting 1)) (fun t =>
    !t.ls.awaitAck && t.snd == .wait && t.cnt.ackStale == 0 && t.cnt.rxFrames == 1) = true := by decide

/-- V-SN-4. -/
theorem test_ack_stale : answers (exec (.ackFrame 1 []) (waiting 1)) (fun t =>
    t.ls.awaitAck && t.snd == .wait && t.cnt.ackStale == 1 && !t.ackReq) = true := by decide

/-- V-DS-9. -/
theorem test_end_new : answers (exec (.endFrame 0 [0x78, 0x79, 0x7a]) receiving) (fun t =>
    t.ls.peerEnd && t.ls.lrValid && t.ls.lrId == 0 && !t.ls.newData && t.ls.rxLen == 0 && t.mem == [] &&
    t.ackImg == ack0) = true := by decide

/-- V-DS-10. -/
theorem test_end_duplicate : answers
    (exec (.endFrame 0 []) { receiving with ls := { LinkState.reset with lrValid := true, peerEnd := true } })
    (fun t => t.cnt.dup == 1 && t.ls.peerEnd && t.ackReq && t.dsp == .ack) = true := by decide

/-- V-DS-4 with a unit in progress. -/
theorem test_reset_waiting : answers (exec (.resetFrame 0xFFFF []) (waiting 1)) (fun t =>
    t.statusWord == 0x000000C2 && t.snd == .halt && t.dsp == .halt && t.streamClose && !t.ackReq) = true := by decide

/-- V-DS-4 with the sender idle. -/
theorem test_reset_idle :
    answers (exec (.resetFrame 7 []) receiving) (fun t => t.statusWord == 0x000000C0) = true := by decide

/-- V-HC-15. -/
theorem test_nop_fatal : answers (exec .nop fatalBlock) (fun t => decide (t = fatalBlock)) = true := by decide

/-- V-SN-1. -/
theorem test_send : answers
    (exec (.send false false)
      { receiving with txLen := 3, mem := [(0x4000, 0x61), (0x4004, 0x62), (0x4008, 0x63)] })
    (fun t => t.snd == .send && t.sndId == 0 && t.sndLen == 18 && t.sndImg == dataAbc && t.sndReq &&
      t.statusWord == 0x00000009) = true := by decide

/-- V-SN-2: `TX_LEN` = 4096 with the sentinel. -/
theorem test_send_too_long : answers (exec (.send false true) { base with txLen := 4096 })
    (fun t => decide (t = { base with txLen := 4096, cmdErr := true })) = true := by decide

/-- V-HC-19. -/
theorem test_dack : ({ base with irqEn := 2, ls := { LinkState.reset with newData := true } } : State).irq = true ∧
    answers (exec .dack { base with irqEn := 2, ls := { LinkState.reset with newData := true } })
      (fun t => !t.ls.newData && !t.irq) = true := by decide

/-- V-HC-16. -/
theorem test_dack_fatal : answers (exec .dack fatalBlock) (fun t => t.cmdErr) = true := by decide

/-- The worked example of R265. -/
theorem test_start_rx : answers (exec .startRx base) (fun t =>
    t.statusWord == 0x00000008 && t.linkWord == 0x01000000) = true := by decide

/-- V-HC-13. -/
theorem test_start_rx_twice :
    answers (exec .startRx receiving) (fun t => t.cmdErr && t.dsp == .recv) = true := by decide

/-! ### One step of the other transitions -/

/-- V-HC-12. -/
theorem test_status_write : answers
    (step (chosen (.busWrite 0x0004 0x202) { sending with txDone := true, txOk := true, cmdErr := true }))
    (fun t => t.statusWord == 0x00000005) = true := by decide

/-- V-HC-1, V-HC-7. -/
theorem test_reads : answers (step (chosen (.busRead 0x001C) base)) (fun t => t.busRdata == 0x00101000) = true ∧
    answers (step (chosen (.busRead 0x0044) base)) (fun t => t.busRdata == 0 && t.busErr) = true := by decide

/-- V-HC-9, V-HC-17, V-HC-18: the bits that are kept. -/
theorem test_writes :
    answers (step (chosen (.busWrite 0x4000 0x161) base)) (fun t => t.mem == [(0x4000, 0x61)]) = true ∧
    answers (step (chosen (.busWrite 0x000C 0x1FFFF) base)) (fun t => t.txLen == 0x1FFF) = true ∧
    answers (step (chosen (.busWrite 0x0014 0x3F) base)) (fun t => t.irqEn == 0x1F) = true := by decide

/-- V-TX-1. -/
theorem test_grant : answers (step (chosen .grant { sending with ackReq := true, dsp := .ack, ackImg := ack0 }))
    (fun t => t.txOwner == .dsp && !t.ackReq && t.sndReq) = true := by decide

/-- V-TX-2. -/
theorem test_last_byte : answers (step (chosen .txTake (onWire 17))) (fun t =>
    t.ser == .idle && t.txOwner == .none && t.cnt.txFrames == 1 && t.attempts == 1 && t.ls.awaitAck &&
    t.ls.outId == 0 && t.snd == .wait && t.txStream == dataAbc) = true := by decide

/-- V-TX-3. -/
theorem test_write_error : answers (step (chosen .txErr (onWire 3))) (fun t =>
    t.txStream == [0xdc, 0xc0, 0x23] && t.cnt.txIoErr == 1 && t.attempts == 1 && t.sndReq && t.cnt.retx == 1 &&
    t.snd == .send && !t.ls.awaitAck) = true := by decide

/-- V-SN-5. -/
theorem test_ack_timeout : answers (step (chosen .ackTimeout (waiting 1)))
    (fun t => t.snd == .send && t.sndReq && t.cnt.retx == 1 && t.sndImg == dataAbc) = true := by decide

/-- V-DS-1. -/
theorem test_miss : answers (step (chosen .dispatch { receiving with rxr := .timeout, rxMiss := 3 })) (fun t =>
    t.rxMiss == 4 && t.cnt.rxTimeout == 1 && t.lastErr == 7 && t.dsp == .recv && t.rxr == .empty) = true := by decide

/-- R302 with R310's formula (log entry 23): the fatal state ends `D_EXPIRED`, and its interrupt source with it. -/
theorem test_fatal_ends_expired :
    ({ resetOnWire 3 with dsp := .expired, irqEn := 0x08 } : State).irq = true ∧
    answers (step (chosen .txErr { resetOnWire 3 with dsp := .expired, irqEn := 0x08 })) (fun t =>
      t.dsp == .halt && !t.irq) = true := by decide

/-- V-RX-2: the ninth byte matches, one byte was discarded. -/
theorem test_hunt : answers
    (step (chosen .rxByte { receiving with
      winN := 8, win := [0x00, 0xdc, 0xc0, 0x23, 0xc2, 0xdc, 0xc0, 0x23], rxStream := [0xc2] }))
    (fun t => t.des == .hdr && t.huntCnt == 1 && t.candN == 8) = true := by decide

/-- V-RX-18: the checksum is checked before the flags. -/
theorem test_checksum_first : answers
    (step (chosen .rxByte { receiving with
      des := .pay, candPl := 3, candN := 17, cand := (dataAbc.set 14 0x01).take 17, rxStream := [0x63] }))
    (fun t => t.rxr == .reject .checksum) = true := by decide

/-- The opcode table's words run as the first instruction after reset. -/
theorem test_table_words : answers (step (State.withFetchWord base 8 0x20)) (fun t => t.fatal) = true ∧
    answers (step (State.withFetchWord base 8 0x00)) (fun t => t.ls.newData) = true ∧
    answers (step (State.withFetchWord base 32 0x3)) (fun t => t.dsp == .recv) = true ∧
    decodeTableWord 8 0x80 = some (.ackFrame 0 []) ∧ decodeTableWord 8 0x01 = none ∧
    decodeTableWord 32 0x1 = some (.send false false) := by decide

/-! ### Witnesses: encodings and checksum -/

theorem witness_DecodeOfEncode : small.Wf ∧ (Instr.dataFrame 1 [0xff, 0xff]).wf small = true ∧
    (Instr.resetFrame 0xFFFF []).wf small = true ∧ (Instr.send true false).wf small = true := by decide

theorem witness_EncodeOfDecode : decode vp (.frame ack0) = .ok (.ackFrame 0 []) ∧
    decode vp (.cmd 0x301) = .ok (.send true true) := by decide

theorem witness_ReservedFlagsRejected : small.Wf ∧ ([1, 2] : List Byte).length ≤ small.maxPayload ∧
    (0x01 : Byte) ≠ 0x00 ∧ (0xC0 : Byte) ≠ 0x80 ∧ (0x01 : Byte) ≠ 0x80 ∧ (0x01 : Byte) ≠ 0x40 ∧
    (0x01 : Byte) ≠ 0x20 := by decide

theorem witness_ReservedIdRejected : small.Wf ∧ ([1, 2] : List Byte).length ≤ small.maxPayload ∧
    2 ≤ (2 : Half).toNat ∧ 2 ≤ (0xFFFF : Half).toNat := by decide

/-- The longest sequence; with every byte 0xff it reaches the bound. -/
theorem witness_ChecksumNeverWraps : (List.replicate (15 + 65535) (0xff : Byte)).length ≤ 15 + 65535 := by
  rw [List.length_replicate]

theorem witness_ChecksumIgnoresWordOrder : ([0x0000, 0x0001] : List Half).Perm [0x0001, 0x0000] := by decide

theorem witness_SingleBitFlipDetected : vp.sync ≠ 0 ∧ ([0x61] : List Byte).length ≤ 65535 ∧ 15 < 15 + 1 ∧ 0 < 15 + 1 ∧
    8 < 15 + 1 ∧ 0 < 8 ∧ 7 < 8 := by decide

theorem witness_SumMethodAcceptsMore : vp.sync ≠ 0 ∧ ([0xf7, 0xfe] : List Byte).length ≤ 65535 ∧
    (0xFFFF : Half).toNat % 0xFFFF = (cksum (zeroChecksum (frameImage vp 0 0 [0xf7, 0xfe]))).toNat % 0xFFFF ∧
    (0xFFFF : Half) ≠ cksum (zeroChecksum (frameImage vp 0 0 [0xf7, 0xfe])) := by decide

/-! ### Witnesses: host accesses -/

theorem witness_RegisterReads : base.cfg.Wf := by decide

theorem witness_BufferReads : base.cfg.Wf ∧ 0 < base.cfg.maxPayload ∧ 4095 < base.cfg.maxPayload := by decide

theorem witness_TxBufWrite : base.cfg.Wf ∧ 4095 < base.cfg.maxPayload ∧ base.snd.busy = false := by decide

theorem witness_RefusedAccess_addresses : small.Wf ∧ (0x0002 : HostAddr).toNat % 4 ≠ 0 ∧
    (0x0044 ≤ (0x0044 : HostAddr).toNat ∧ (0x0044 : HostAddr).toNat < 0x4000) ∧
    (0x0044 ≤ (0x3FFC : HostAddr).toNat ∧ (0x3FFC : HostAddr).toNat < 0x4000) ∧
    (0x4000 + 4 * small.maxPayload ≤ (0x4008 : HostAddr).toNat ∧ (0x4008 : HostAddr).toNat < 0x8000) ∧
    (0x8000 + 4 * small.maxPayload ≤ (0x8008 : HostAddr).toNat ∧ (0x8008 : HostAddr).toNat < 0xC000) ∧
    0xC000 ≤ (0xC000 : HostAddr).toNat ∧ 0xC000 ≤ (0xFFFF : HostAddr).toNat := by decide

theorem witness_RefusedAccess_busy : sending.cfg.Wf ∧ sending.snd.busy = true ∧ 0 < sending.cfg.maxPayload := by decide

theorem witness_ReadOnlyWritesIgnored : base.cfg.Wf ∧
    (0x0020 ≤ (0x0020 : HostAddr).toNat ∧ (0x0020 : HostAddr).toNat ≤ 0x0040 ∧ (0x0020 : HostAddr).toNat % 4 = 0) ∧
    (0x0020 ≤ (0x0040 : HostAddr).toNat ∧ (0x0040 : HostAddr).toNat ≤ 0x0040 ∧ (0x0040 : HostAddr).toNat % 4 = 0) ∧
    4095 < base.cfg.maxPayload := by decide

theorem witness_TxLenAndIrqEnWrites : base.snd.busy = false ∧ sending.snd.busy = true := by decide

theorem witness_IllegalCommandWord : 4 ≤ ((0x04 : Word).extractLsb' 0 8).toNat ∧
    4 ≤ ((0xFF : Word).extractLsb' 0 8).toNat ∧ (0x401 : Word).extractLsb' 10 22 ≠ 0 ∧
    (0x80000000 : Word).extractLsb' 10 22 ≠ 0 ∧
    ((0x102 : Word).extractLsb' 0 8 ≠ 1 ∧ (0x102 : Word).extractLsb' 8 2 ≠ 0) ∧
    ((0x200 : Word).extractLsb' 0 8 ≠ 1 ∧ (0x200 : Word).extractLsb' 8 2 ≠ 0) := by decide

/-! ### Witnesses: commands and frames -/

theorem witness_SendAccepted : base.fatal = false ∧ base.snd = .idle ∧ base.ls.localEnd = false ∧
    ({ base with txLen := 4095 } : State).txLen.toNat + true.toNat ≤ base.cfg.maxPayload := by decide

theorem witness_SendRefused : fatalBlock.fatal = true ∧ sending.snd ≠ .idle ∧
    ({ base with ls := { LinkState.reset with localEnd := true } } : State).ls.localEnd = true ∧
    base.cfg.maxPayload < ({ base with txLen := 4096 } : State).txLen.toNat + true.toNat := by decide

theorem witness_DackReleases : base.fatal = false ∧ fatalBlock.fatal = true := by decide

theorem witness_StartRxStarts : (base.fatal = false ∧ base.dsp = .off) ∧ fatalBlock.fatal = true ∧
    receiving.dsp ≠ .off ∧ base.dsp = .off := by decide

theorem witness_NewUnitAccepted : receiving.dsp = .recv ∧
    ¬(receiving.ls.lrValid = true ∧ (0 : Half) = receiving.ls.lrId.setWidth 16) ∧ receiving.ls.newData = false ∧
    ¬(true = true ∧ (1 : Half) = (0 : BitVec 1).setWidth 16) := by decide

theorem witness_DuplicateReacknowledged : ∃ s : State, s.dsp = .recv ∧ s.ls.lrValid = true ∧
    (1 : Half) = s.ls.lrId.setWidth 16 :=
  ⟨{ receiving with ls := { LinkState.reset with lrValid := true, lrId := 1 } }, by decide⟩

theorem witness_OverrunPolicyApplies : ∃ s u : State, (s.dsp = .recv ∧ s.ls.newData = true ∧
      ¬(s.ls.lrValid = true ∧ (1 : Half) = s.ls.lrId.setWidth 16) ∧ s.cfg.overrun = .holdOff) ∧
    (u.dsp = .recv ∧ u.ls.newData = true ∧ ¬(u.ls.lrValid = true ∧ (1 : Half) = u.ls.lrId.setWidth 16) ∧
      u.cfg.overrun = .overwrite) :=
  ⟨{ receiving with ls := { LinkState.reset with lrValid := true, newData := true } },
    { receiving with
      cfg := { vp with overrun := .overwrite }
      ls := { LinkState.reset with lrValid := true, newData := true } }, by decide⟩

theorem witness_AckMatchedOrStale : (waiting 1).dsp = .recv ∧
    ((waiting 1).ls.awaitAck = true ∧ (0 : Half) = (waiting 1).ls.outId.setWidth 16) ∧
    ¬((waiting 1).ls.awaitAck = true ∧ (1 : Half) = (waiting 1).ls.outId.setWidth 16) ∧
    ¬(receiving.ls.awaitAck = true ∧ (0 : Half) = receiving.ls.outId.setWidth 16) := by decide

theorem witness_ResetFrameIsFatal : receiving.dsp = .recv ∧ (waiting 1).dsp = .recv := by decide

/-! ### Witnesses: the engines -/

theorem witness_RoundEnd : ∃ s t u : State, (s.ls.peerEnd = true ∧ s.ls.localEnd = true) ∧
    (¬(t.ls.peerEnd = true ∧ t.ls.localEnd = true) ∧ t.rxMiss.toNat = t.cfg.maxAttempts) ∧
    (¬(u.ls.peerEnd = true ∧ u.ls.localEnd = true) ∧ u.rxMiss.toNat ≠ u.cfg.maxAttempts) :=
  ⟨{ receiving with ls := { LinkState.reset with peerEnd := true, localEnd := true }, rxMiss := 16 },
    { receiving with rxMiss := 16 }, { receiving with rxMiss := 15 }, by decide⟩

theorem witness_MissedRound : ∃ s t : State, (s.dsp = .recv ∧ s.rxr = .timeout) ∧
    (t.dsp = .recv ∧ t.rxr = .reject .id) :=
  ⟨{ receiving with rxr := .timeout }, { receiving with rxr := .reject .id }, by decide⟩

theorem witness_GrantPrefersAck : ∃ s : State, (s.ser = .idle ∧ s.fatal = false ∧ s.ackReq = true) ∧
    (sending.ser = .idle ∧ sending.fatal = false ∧ sending.ackReq = false ∧ sending.sndReq = true) ∧
    (onWire 3).ser = .busy ∧ (base.ackReq = false ∧ base.sndReq = false) ∧ fatalBlock.fatal = true :=
  ⟨{ sending with ackReq := true }, by decide⟩

theorem witness_ByteTaken : ((onWire 16).ser = .busy ∧ (onWire 16).txOwner = .snd ∧
      (onWire 16).txPos + 1 < (onWire 16).sndLen ∧ (onWire 16).sndImg[(onWire 16).txPos]? = some 0x62) ∧
    ((ackOnWire 13).ser = .busy ∧ (ackOnWire 13).txOwner = .dsp ∧ (ackOnWire 13).txPos + 1 < 15 ∧
      (ackOnWire 13).ackImg[(ackOnWire 13).txPos]? = some 0x00) := by decide

theorem witness_AttemptCompletes : (onWire 17).ser = .busy ∧ (onWire 17).txOwner = .snd ∧ (onWire 17).snd = .send ∧
    (onWire 17).txPos + 1 = (onWire 17).sndLen ∧ (onWire 17).sndImg[(onWire 17).txPos]? = some 0x63 := by decide

theorem witness_AttemptFails : (onWire 3).stallTmr = some 0 ∧ (onWire 3).ser = .busy ∧ (onWire 3).txOwner = .snd ∧
    (onWire 3).snd = .send ∧ ((onWire 3).attempts + 1).toNat ≠ (onWire 3).cfg.maxAttempts ∧
    (({ onWire 3 with attempts := 15 } : State).attempts + 1).toNat = (onWire 3).cfg.maxAttempts := by decide

theorem witness_ResetSentIsFatal : (resetOnWire 14).ser = .busy ∧ (resetOnWire 14).txOwner = .snd ∧
    (resetOnWire 14).snd = .reset ∧ (resetOnWire 14).txPos + 1 = (resetOnWire 14).sndLen ∧
    (resetOnWire 14).stallTmr = some 0 := by decide

theorem witness_AckSentEndsRound : (ackOnWire 14).ser = .busy ∧ (ackOnWire 14).txOwner = .dsp ∧
    (ackOnWire 14).dsp = .ack ∧ (ackOnWire 14).txPos + 1 = 15 ∧
    (ackOnWire 14).ackImg[(ackOnWire 14).txPos]? = some 0x80 ∧ (ackOnWire 14).stallTmr = some 0 := by decide

theorem witness_AckedUnitSucceeds : ∃ s : State, s.snd = .wait ∧ s.ls.awaitAck = false :=
  ⟨{ waiting 1 with ls := LinkState.reset }, by decide⟩

theorem witness_AckTimeoutRetransmits : (waiting 15).snd = .wait ∧ (waiting 15).ls.awaitAck = true ∧
    (waiting 15).ackTmr = some 0 ∧ (waiting 15).attempts.toNat ≠ (waiting 15).cfg.maxAttempts ∧
    (waiting 16).attempts.toNat = (waiting 16).cfg.maxAttempts := by decide

/-- The full window: a match at the limit, a mismatch at the limit, and a mismatch below it. -/
theorem witness_HuntByte_full : ∃ s u : State, ∃ w v : List Byte,
    (s.dsp = .recv ∧ s.rxr = .empty ∧ s.des = .hunt ∧ s.rxStream = 0xc2 :: [0x11] ∧ s.winN = 8 ∧ s.win.length = 8 ∧
      w = s.win.tail ++ [0xc2] ∧ be32 w 0 = s.cfg.sync ∧ be32 w 4 = s.cfg.sync ∧
      s.huntCnt + 1 = 15 + s.cfg.maxPayload) ∧
    (v = s.win.tail ++ [0xc3] ∧ ¬(8 = 8 ∧ be32 v 0 = s.cfg.sync ∧ be32 v 4 = s.cfg.sync)) ∧
    (u.winN = 8 ∧ u.win = s.win ∧ u.huntCnt + 1 ≠ 15 + u.cfg.maxPayload) :=
  ⟨{ receiving with
      winN := 8, win := [0x00, 0xdc, 0xc0, 0x23, 0xc2, 0xdc, 0xc0, 0x23], huntCnt := 4110, rxStream := [0xc2, 0x11] },
    { receiving with winN := 8, win := [0x00, 0xdc, 0xc0, 0x23, 0xc2, 0xdc, 0xc0, 0x23], huntCnt := 4109 },
    [0xdc, 0xc0, 0x23, 0xc2, 0xdc, 0xc0, 0x23, 0xc2], [0xdc, 0xc0, 0x23, 0xc2, 0xdc, 0xc0, 0x23, 0xc3], by decide⟩

/-- The filling window: its first byte, over bytes left from an earlier round, and its eighth, which matches. -/
theorem witness_HuntByte_filling : ∃ s u : State, ∃ w : List Byte,
    (s.dsp = .recv ∧ s.rxr = .empty ∧ s.des = .hunt ∧ s.rxStream = 0xdc :: [] ∧ s.winN = 0 ∧ s.winN ≤ s.win.length ∧
      s.win.take s.winN ++ [0xdc] = [0xdc] ∧ s.huntCnt ≠ 15 + s.cfg.maxPayload) ∧
    (u.winN = 7 ∧ u.winN ≤ u.win.length ∧ w = u.win.take u.winN ++ [0xc2] ∧ u.winN + 1 = 8 ∧
      be32 w 0 = u.cfg.sync ∧ be32 w 4 = u.cfg.sync) :=
  ⟨{ receiving with win := [0x11, 0x22], rxStream := [0xdc] },
    { receiving with winN := 7, win := [0xdc, 0xc0, 0x23, 0xc2, 0xdc, 0xc0, 0x23] },
    [0xdc, 0xc0, 0x23, 0xc2, 0xdc, 0xc0, 0x23, 0xc2], by decide⟩

/-- The header clauses: a byte before the 15th, and a 15th byte with a length above, within and at 0. -/
theorem witness_HeaderAndPayloadBytes_header :
    ∃ s u : State, (s.dsp = .recv ∧ s.rxr = .empty ∧ s.rxStream = 0x80 :: [0x55] ∧ s.des = .hdr) ∧
    (u.des = .hdr ∧ u.candN < 14 ∧ u.candN ≤ u.cand.length) ∧ s.candN = 14 ∧ s.candN ≤ s.cand.length ∧
    s.cfg.maxPayload < (be16 ((header 0x10 0x01).take 14 ++ [0x80]) 10).toNat ∧
    (be16 ((header 0x10 0x00).take 14 ++ [0x80]) 10 ≠ 0 ∧
      (be16 ((header 0x10 0x00).take 14 ++ [0x80]) 10).toNat ≤ s.cfg.maxPayload) ∧
    (s.cand = header 0x00 0x00 ∧ be16 (s.cand.take s.candN ++ [0x80]) 10 = 0) :=
  ⟨{ receiving with des := .hdr, candN := 14, rxStream := [0x80, 0x55], cand := header 0x00 0x00 },
    { receiving with des := .hdr, candN := 13, cand := (header 0x00 0x00).take 13 }, by decide⟩

/-- The payload clauses: a byte before the last, and the last. -/
theorem witness_HeaderAndPayloadBytes_payload :
    ∃ s u : State, (s.dsp = .recv ∧ s.rxr = .empty ∧ s.rxStream = 0x63 :: [] ∧ s.des = .pay ∧
      s.candN ≤ s.cand.length ∧ s.candN + 1 = 15 + s.candPl.toNat ∧
      be16 (s.cand.take s.candN ++ [0x63]) 10 = s.candPl) ∧
    (u.des = .pay ∧ u.candN ≤ u.cand.length ∧ u.candN + 1 ≠ 15 + u.candPl.toNat) :=
  ⟨{ receiving with des := .pay, candN := 17, candPl := 3, rxStream := [0x63], cand := dataAbc.take 17 },
    { receiving with des := .pay, candN := 16, candPl := 3, cand := dataAbc.take 16 }, by decide⟩

/-- The verdict at a last byte, cause by cause (V-FR-3 with one byte changed, and with its checksum made right). -/
theorem test_last_byte_verdict :
    answers (step (chosen .rxByte (lastByte ack0))) (fun t =>
      t.rxr == .frame { id := 0, flags := 0x80, length := 0, payload := [] }) = true ∧
    answers (step (chosen .rxByte (lastByte (ack0.set 9 0xfa)))) (fun t => t.rxr == .reject .checksum) = true ∧
    answers (step (chosen .rxByte (lastByte (ckgen (ack0.set 14 0x01))))) (fun t => t.rxr == .reject .flags) = true ∧
    answers (step (chosen .rxByte (lastByte (ckgen (ack0.set 13 0x02))))) (fun t => t.rxr == .reject .id) = true := by
  decide

theorem witness_EventsFireOnlyWhenEnabled : ∃ s : State, (s.dsp = .recv ∧ s.rxr = .empty ∧ s.rxTmr = some 0) ∧
    ¬(base.dsp = .recv ∧ base.rxr = .empty) ∧ receiving.rxStream = [] ∧
    ¬(receiving.dsp = .recv ∧ receiving.rxr = .empty ∧ receiving.rxTmr = some 0) ∧ base.ser ≠ .busy ∧
    ¬(base.ser = .busy ∧ base.stallTmr = some 0) ∧
    ¬(base.snd = .wait ∧ base.ls.awaitAck = true ∧ base.ackTmr = some 0) :=
  ⟨{ receiving with rxTmr := some 0 }, by decide⟩

/-! ### Witnesses: the whole machine -/

theorem witness_StepRunsDecodedInstruction : decode base.cfg (.cmd 0x3) = .ok .startRx ∧
    decode vp (.frame dataAbc) = .ok (.dataFrame 0 [0x61, 0x62, 0x63]) ∧
    validate dataAbc = .ok { id := 0, flags := 0x00, length := 3, payload := [0x61, 0x62, 0x63] } ∧
    (holding 0 0x00 [0x61, 0x62, 0x63]).dsp = .recv ∧
    (holding 0 0x00 [0x61, 0x62, 0x63]).rxr
      = .frame { id := 0, flags := 0x00, length := 3, payload := [0x61, 0x62, 0x63] } := by decide

/-- The reset state, with the grant as the next choice, meets the invariant. -/
theorem inv_base : Inv (chosen .grant base) where
  cfg := by decide
  mem := ⟨List.Pairwise.nil, fun c hc => by cases hc⟩
  fatal := by constructor <;> simp [chosen, State.resetWith]
  ser := by constructor <;> simp [chosen, State.resetWith]
  snd := by constructor <;> simp [chosen, State.resetWith, SndState.busy, LinkState.reset]
  dsp := by constructor <;> simp [chosen, State.resetWith, LinkState.reset]
  des := by constructor <;> simp [chosen, State.resetWith]

/-- A queued unit, with the grant as the next choice, meets the invariant. -/
theorem inv_sending : Inv (chosen .grant sending) where
  cfg := by decide
  mem := ⟨List.Pairwise.nil, fun c hc => by cases hc⟩
  fatal := by constructor <;> simp [chosen, State.resetWith]
  ser := by constructor <;> simp [chosen, State.resetWith]
  snd := by
    constructor
    case image => exact fun _ => ⟨[0x61, 0x62, 0x63], by decide, by decide, by decide⟩
    all_goals simp [chosen, State.resetWith, SndState.busy, LinkState.reset, vp, Config.vectorParams]
  dsp := by constructor <;> simp [chosen, State.resetWith, LinkState.reset]
  des := by constructor <;> simp [chosen, State.resetWith]

/-- A fatal block meets the invariant. -/
theorem inv_fatal : Inv fatalBlock where
  cfg := by decide
  mem := ⟨List.Pairwise.nil, fun c hc => by cases hc⟩
  fatal := by constructor <;> simp [State.raiseFatal, State.resetWith]
  ser := by constructor <;> simp [State.raiseFatal, State.resetWith]
  snd := by constructor <;> simp [State.raiseFatal, State.resetWith, SndState.busy]
  dsp := by constructor <;> simp [State.raiseFatal, State.resetWith, LinkState.reset]
  des := by constructor <;> simp [State.raiseFatal, State.resetWith]

theorem witness_EveryStepKeepsInvariant : ∃ s t : State, Inv s ∧ step s = .next t ∧ t.ser = .busy :=
  ⟨_, _, inv_sending, rfl, rfl⟩

theorem witness_ResetMeetsInvariant : vp.Wf ∧ small.Wf := by decide

theorem witness_InvariantStatesGoOn : ∃ s : State, Inv s := ⟨_, inv_base⟩

theorem witness_FatalStateIsFinal : ∃ s t : State, ∃ e : Event, Inv s ∧ s.fatal = true ∧ e ≠ .reset ∧
    step (chosen e s) = .next t :=
  ⟨fatalBlock, _, .tick, inv_fatal, rfl, by decide, rfl⟩

/-- Every clause's premise is met by the transition it names. -/
theorem witness_LinkStateWriters :
    answers (step (chosen .acked { waiting 1 with ls := LinkState.reset, sndFinal := true }))
      (fun t => t.ls.nextSendId != 0 && t.ls.localEnd) = true ∧
    answers (step (chosen .txTake { onWire 17 with sndId := 1 })) (fun t => t.ls.outId != 0 && t.ls.awaitAck) = true ∧
    answers (step (chosen .dispatch (holding 1 0x00 [0x61])))
      (fun t => t.ls.newData && t.ls.lrValid && t.ls.lrId != 0 && t.ls.rxLen != 0 &&
        Memory.read t.mem 0x8000 == some 0x61) = true ∧
    answers (step (chosen .dispatch (holding 0 0x40 []))) (fun t => t.ls.peerEnd) = true ∧
    answers (step (chosen .dispatch { holding 0 0x80 [] with ls := { LinkState.reset with awaitAck := true } }))
      (fun t => !t.ls.awaitAck) = true ∧
    answers (step (chosen (.busWrite 0x0000 0x00000002) { base with ls := { LinkState.reset with newData := true } }))
      (fun t => !t.ls.newData) = true := by decide

theorem witness_UnitKeepsItsIdAndImage :
    answers (step (chosen .acked { waiting 1 with ls := LinkState.reset })) (fun t => t.ls.nextSendId == 1) = true ∧
    (waiting 1).snd = .wait ∧ answers (step (chosen .ackTimeout (waiting 1))) (fun t => t.snd == .send) = true := by
  decide

theorem witness_StickyStatusBits :
    (fatalBlock.fatal = true ∧ answers (step (chosen .tick fatalBlock)) (fun _ => true) = true) ∧
    (base.fatal = false ∧ answers (step (chosen .dispatch (holding 7 0x20 []))) (fun t => t.fatal) = true) ∧
    answers (step (chosen .txErr (resetOnWire 3))) (fun t => t.fatal && t.txDone && !t.txOk) = true ∧
    answers (step (chosen .acked { waiting 1 with ls := LinkState.reset })) (fun t => t.txDone && t.txOk) = true ∧
    answers (step (chosen (.busWrite 0x0004 0x602) { base with txDone := true, cmdErr := true, busErr := true }))
      (fun t => !t.txDone && !t.cmdErr && !t.busErr) = true := by decide

/-- The premises of the setting clauses: each of R262's cases, and both kinds of R261's refusal. -/
theorem witness_StickyStatusBits_set :
    (base.cmdErr = false ∧ answers (step (chosen (.busWrite 0x0000 0x07) base)) (fun t => t.cmdErr) = true) ∧
    answers (step (chosen (.busWrite 0x0000 0x01) sending)) (fun t => t.cmdErr) = true ∧
    answers (step (chosen (.busWrite 0x0000 0x02) fatalBlock)) (fun t => t.cmdErr) = true ∧
    answers (step (chosen (.busWrite 0x0000 0x03) receiving)) (fun t => t.cmdErr) = true ∧
    (base.busErr = false ∧ answers (step (chosen (.busRead 0x0044) base)) (fun t => t.busErr) = true) ∧
    answers (step (chosen (.busWrite 0x000C 0x05) sending)) (fun t => t.busErr) = true ∧
    answers (step (chosen (.busWrite 0x7FFC 0x05) sending)) (fun t => t.busErr) = true := by decide

theorem witness_FramesDoNotInterleave : (∃ s t : State, Inv s ∧ step s = .next t ∧ t.ser = .busy) ∧
    answers (step (chosen .txTake (onWire 3))) (fun t => t.txStream == [0xdc, 0xc0, 0x23, 0xc2]) = true :=
  ⟨⟨_, _, inv_sending, rfl, rfl⟩, by decide⟩

theorem witness_IncomingStreamIsOrdered :
    answers (step (chosen (.arrive 0x55) base)) (fun t => t.rxStream == [0x55]) = true ∧
    answers (step (chosen .rxByte { receiving with rxStream := [1, 2] })) (fun t => t.rxStream == [2]) = true ∧
    answers (step (chosen .tick base)) (fun t => t.rxStream == []) = true := by decide

theorem witness_WireRoundTrip : ∃ s : State, s.cfg.Wf ∧
    ((0x40 : Byte) = 0x00 ∨ (0x40 : Byte) = 0x80 ∨ (0x40 : Byte) = 0x40) ∧ ((1 : Half) = 0 ∨ (1 : Half) = 1) ∧
    ([0x61, 0x62] : List Byte).length ≤ s.cfg.maxPayload ∧ s.dsp = .recv ∧ s.rxr = .empty ∧ s.des = .hunt ∧
    s.winN = 0 ∧ s.huntCnt = 0 ∧ s.rxStream = frameImage s.cfg 1 0x40 [0x61, 0x62] ++ [0x99] :=
  ⟨{ State.resetWith small with
      dsp := .recv, rxTmr := some 2, rxStream := frameImage small 1 0x40 [0x61, 0x62] ++ [0x99] }, by decide⟩

theorem witness_ExhaustionByWriteFailures : sending.cfg.Wf ∧ sending.fatal = false ∧ sending.snd = .send ∧
    sending.attempts = 0 ∧ sending.sndReq = true ∧ sending.ackReq = false ∧ sending.ser = .idle := by decide

theorem witness_SilentPeerExpires : receiving.cfg.Wf ∧ receiving.dsp = .recv ∧ receiving.rxr = .empty ∧
    receiving.rxMiss = 0 ∧ receiving.rxTmr = some receiving.cfg.rxTimeout ∧
    ¬(receiving.ls.peerEnd = true ∧ receiving.ls.localEnd = true) := by decide

/-- A cycle with an event of each item that can meet in one state. -/
theorem witness_CycleOrder :
    resolveCycle (holding 0 0x80 []) [.ackTimeout, .tick, .dispatch, .reset] = [.reset, .dispatch, .ackTimeout, .tick] ∧
    resolveCycle { resetOnWire 14 with dsp := .recv, rxr := (holding 0 0x20 []).rxr } [.grant, .txTake, .dispatch]
      = [.dispatch, .txTake, .grant] ∧
    resolveCycle (resetOnWire 13) [.ackTimeout, .txTake, .txErr] = [.txErr, .ackTimeout, .txTake] := by decide

end Sys2Proof.Tests
end

/-! PROOFS. What one step can be, transition by transition (R70). -/

namespace Sys2Proof.Machine

open Sys2Proof.Safety

/-! ### The address map and the command words, read backwards -/

/-- Only 0x000C names `TX_LEN`. -/
theorem target_eq_txLen {p : Params} {a : HostAddr} (h : target p a = .txLen) : a = 0x000C#16 := by
  unfold target at h
  simp only at h
  split at h
  · cases h
  next h4 =>
  split at h
  · unfold regAt at h
    split at h <;> try cases h
    next hk =>
    apply BitVec.eq_of_toNat_eq
    simp only [BitVec.toNat_ofNat]
    omega
  · repeat' split at h
    all_goals cases h

/-- The window of `TXBUF` in the address map. -/
theorem target_eq_txBuf_window {p : Params} {a : HostAddr} {i : Nat} (h : target p a = .txBuf i) :
    0x4000 ≤ a.toNat ∧ a.toNat < 0x4000 + 4 * p.maxPayload := by
  unfold target at h
  simp only at h
  split at h
  · cases h
  split at h
  · unfold regAt at h; split at h <;> cases h
  split at h
  · cases h
  split at h
  · split at h
    · omega
    · cases h
  · split at h
    · split at h <;> cases h
    · cases h

/-- The one word that is DACK. -/
theorem decodeCmd_eq_dack {v : Word} (h : decodeCmd v = .ok .dack) : v = 0x00000002#32 := by
  obtain ⟨hr, ⟨_, _, hi⟩ | ⟨_, hi⟩ | ⟨hop, harg, _⟩ | ⟨_, _, hi⟩⟩ := decodeCmd_cases h
  · cases hi
  · cases hi
  · have hop := congrArg BitVec.toNat hop
    have harg := congrArg BitVec.toNat harg
    have hr := congrArg BitVec.toNat hr
    have := v.isLt
    apply BitVec.eq_of_toNat_eq
    simp only [BitVec.extractLsb'_toNat, Nat.shiftRight_eq_div_pow, BitVec.toNat_ofNat] at *
    omega
  · cases hi

/-! ### Refusals of the host interface -/

/-- R262's cases: why a word written to `CMD` is a command error. -/
def State.RefusesCommand (s : State) (v : Word) : Prop :=
  4 ≤ (v.extractLsb' 0 8).toNat ∨ v.extractLsb' 10 22 ≠ 0 ∨ (v.extractLsb' 0 8 ≠ 1 ∧ v.extractLsb' 8 2 ≠ 0) ∨
  (v.extractLsb' 0 8 = 1 ∧ (s.fatal = true ∨ s.snd ≠ .idle ∨ s.ls.localEnd = true ∨
    s.cfg.maxPayload < s.txLen.toNat + (v.getLsbD 9).toNat)) ∨
  (v.extractLsb' 0 8 = 2 ∧ s.fatal = true) ∨
  (v.extractLsb' 0 8 = 3 ∧ (s.fatal = true ∨ s.dsp ≠ .off))

/-- R80 and R81: the addresses at which the block has nothing to read or write. -/
def NoPlace (p : Params) (a : HostAddr) : Prop :=
  a.toNat % 4 ≠ 0 ∨ (0x0044 ≤ a.toNat ∧ a.toNat < 0x4000) ∨
  (0x4000 + 4 * p.maxPayload ≤ a.toNat ∧ a.toNat < 0x8000) ∨
  (0x8000 + 4 * p.maxPayload ≤ a.toNat ∧ a.toNat < 0xC000) ∨ 0xC000 ≤ a.toNat

/-- R269 and R271: the places that refuse a write while a unit is in progress, `TX_LEN` and `TXBUF`. -/
def TxPlace (p : Params) (a : HostAddr) : Prop :=
  a = 0x000C#16 ∨ (0x4000 ≤ a.toNat ∧ a.toNat < 0x4000 + 4 * p.maxPayload)

/-! ### The transitions -/

/-- The ways a frame being sent fails: `tx_err`, or `tx_stall` when its timer stands at 0 (R147). -/
def State.FrameFails (s : State) (e : Event) : Prop := e = .txErr ∨ (e = .txStall ∧ s.stallTmr = some 0)

/-- The transitions of the block, each with its guard and its effect: what a chosen event can do (`fires_of_step`). -/
inductive Fires : Event → State → State → Prop where
  /-- A choice that is not enabled is spent. -/
  | spent {e : Event} {s : State} : enabled e s = false → Fires e s s
  | arrive (b : Byte) (s : State) : Fires (.arrive b) s { s with rxStream := s.rxStream ++ [b] }
  | rxByte {s : State} {b : Byte} {rest : List Byte} : s.dsp = .recv → s.rxr = .empty → s.rxStream = b :: rest →
      Fires .rxByte s (State.takeByte { s with rxStream := rest } b)
  | rxErr {s : State} : s.dsp = .recv → s.rxr = .empty → Fires .rxErr s s.rxErr
  | rxTimeout {s : State} : s.dsp = .recv → s.rxr = .empty → s.rxTmr = some 0 → Fires .rxTimeout s s.rxTimeout
  /-- A byte before a frame's last (R145). -/
  | byteTaken {s : State} : s.ser = .busy → s.txOwner ≠ .none → s.txPos + 1 ≠ s.txFrameLen →
      Fires .txTake s s.sendByte
  /-- The last byte of a unit's frame (R203). -/
  | attemptDone {s : State} : s.ser = .busy → s.txOwner = .snd → s.snd = .send → s.txPos + 1 = s.sndLen →
      Fires .txTake s (s.sendByte.endFrame { s.cnt with txFrames := bump s.cnt.txFrames }).attemptDone
  /-- The last byte of the sender's RESET frame (R208). -/
  | resetSent {s : State} : s.ser = .busy → s.txOwner = .snd → s.snd = .reset → s.txPos + 1 = s.sndLen →
      Fires .txTake s
        ((s.sendByte.endFrame { s.cnt with txFrames := bump s.cnt.txFrames }).raiseFatal .exhausted)
  /-- The last byte of an ACK frame (R238). -/
  | ackSent {s : State} : s.ser = .busy → s.txOwner = .dsp → s.dsp = .ack → s.txPos + 1 = hdrLen →
      Fires .txTake s (s.sendByte.endFrame { s.cnt with txFrames := bump s.cnt.txFrames }).roundEnd
  | attemptFailed {e : Event} {s : State} : s.FrameFails e → s.ser = .busy → s.txOwner = .snd → s.snd = .send →
      Fires e s (s.endFrame { s.cnt with txIoErr := bump s.cnt.txIoErr }).attemptFail
  | resetFailed {e : Event} {s : State} : s.FrameFails e → s.ser = .busy → s.txOwner = .snd → s.snd = .reset →
      Fires e s ((s.endFrame { s.cnt with txIoErr := bump s.cnt.txIoErr }).raiseFatal .exhausted)
  | ackFailed {e : Event} {s : State} : s.FrameFails e → s.ser = .busy → s.txOwner = .dsp → s.dsp = .ack →
      Fires e s (s.endFrame { s.cnt with txIoErr := bump s.cnt.txIoErr }).roundEnd
  | ackTimeout {s : State} : s.snd = .wait → s.ls.awaitAck = true → s.ackTmr = some 0 →
      Fires .ackTimeout s s.ackTimeout
  | acked {s : State} : s.snd = .wait → s.ls.awaitAck = false → Fires .acked s s.acked
  | grant {s : State} : s.ser = .idle → s.ackReq = true ∨ s.sndReq = true → s.fatal = false →
      Fires .grant s s.grant
  | tick (s : State) : Fires .tick s s.countTimers
  | reset (s : State) : Fires .reset s s.hardReset
  | read {s : State} {a : HostAddr} {w : Word} : s.readTarget (target s.cfg a) = some w →
      Fires (.busRead a) s { s with busRdata := w }
  | readRefused {s : State} {a : HostAddr} : NoPlace s.cfg a →
      Fires (.busRead a) s { s.busRefuse with busRdata := 0 }
  /-- A write that takes no effect: of a read-only register or of `RXBUF` (R83), or of NOP's word (R267). -/
  | writeIgnored (a : HostAddr) (v : Word) (s : State) : Fires (.busWrite a v) s s
  | writeRefused {s : State} {a : HostAddr} {v : Word} :
      NoPlace s.cfg a ∨ (s.snd.busy = true ∧ TxPlace s.cfg a) → Fires (.busWrite a v) s s.busRefuse
  | writeStatus (v : Word) (s : State) : Fires (.busWrite 0x0004#16 v) s (s.clearStatus v)
  | writeTxLen {s : State} (a : HostAddr) (v : Word) : s.snd.busy = false →
      Fires (.busWrite a v) s { s with txLen := v.setWidth 13 }
  | writeIrqEn (a : HostAddr) (v : Word) (s : State) : Fires (.busWrite a v) s { s with irqEn := v.setWidth 5 }
  | writeTxBuf {s : State} {i : Nat} (a : HostAddr) (v : Word) :
      s.snd.busy = false → i < s.cfg.maxPayload → i < 4096 →
      Fires (.busWrite a v) s { s with mem := Memory.write s.mem (txBufAddr i) (v.setWidth 8) }
  | commandRefused {s : State} {v : Word} : s.RefusesCommand v → Fires (.busWrite 0x0000#16 v) s s.commandError
  | send {s : State} {v : Word} (final nl : Bool) : s.sendRefused nl = false →
      Fires (.busWrite 0x0000#16 v) s (s.accept final nl)
  | dack {s : State} : s.fatal = false →
      Fires (.busWrite 0x0000#16 0x00000002#32) s { s with ls := { s.ls with newData := false } }
  | startRx {s : State} (v : Word) : s.fatal = false → s.dsp = .off →
      Fires (.busWrite 0x0000#16 v) s (State.roundStart { s with rxMiss := 0, dsp := .recv })
  | missTimeout {s : State} : s.dsp = .recv → s.rxr = .timeout → Fires .dispatch s s.missTimeout
  | missReject {s : State} {r : Reject} : s.dsp = .recv → s.rxr = .reject r → Fires .dispatch s (s.missReject r)
  | duplicate {s : State} {f : Frame} : s.dsp = .recv → s.rxr = .frame f → f.flags = 0x00#8 ∨ f.flags = 0x40#8 →
      s.isDuplicate f.id = true → Fires .dispatch s (s.classified.duplicate f.id)
  | newData {s : State} {f : Frame} : s.dsp = .recv → s.rxr = .frame f → f.flags = 0x00#8 →
      s.isDuplicate f.id = false → s.ls.newData = false →
      Fires .dispatch s (s.classified.newData f.id f.payload)
  /-- OVERRUN under `HOLD_OFF` (R237). -/
  | heldOff {s : State} {f : Frame} : s.dsp = .recv → s.rxr = .frame f → f.flags = 0x00#8 →
      s.isDuplicate f.id = false → s.ls.newData = true → s.cfg.overrun = .holdOff →
      Fires .dispatch s
        (State.roundEnd { s.classified with
          cnt := { s.classified.cnt with overrun := bump s.classified.cnt.overrun } })
  /-- OVERRUN under `OVERWRITE` (R237). -/
  | overwritten {s : State} {f : Frame} : s.dsp = .recv → s.rxr = .frame f → f.flags = 0x00#8 →
      s.isDuplicate f.id = false → s.ls.newData = true → s.cfg.overrun = .overwrite →
      Fires .dispatch s
        (State.newData { s.classified with
          cnt := { s.classified.cnt with overrun := bump s.classified.cnt.overrun } } f.id f.payload)
  | newEnd {s : State} {f : Frame} : s.dsp = .recv → s.rxr = .frame f → f.flags = 0x40#8 →
      s.isDuplicate f.id = false → Fires .dispatch s (s.classified.newEnd f.id)
  | ackMatched {s : State} {f : Frame} : s.dsp = .recv → s.rxr = .frame f → f.flags = 0x80#8 →
      s.ls.awaitAck = true → f.id = idField s.ls.outId →
      Fires .dispatch s (State.roundEnd { s.classified with ls := { s.ls with awaitAck := false } })
  | ackStale {s : State} {f : Frame} : s.dsp = .recv → s.rxr = .frame f → f.flags = 0x80#8 →
      Fires .dispatch s
        (State.roundEnd { s.classified with
          cnt := { s.classified.cnt with ackStale := bump s.classified.cnt.ackStale } })
  | resetFrame {s : State} {f : Frame} : s.dsp = .recv → s.rxr = .frame f → f.flags = 0x20#8 →
      Fires .dispatch s (s.classified.raiseFatal .peerReset)

/-! ### What carries an instruction -/

/-- A new DATA unit while no delivered payload is held (R236). -/
theorem State.newDataArm_of_released {s : State} {id : Half} {d : List Byte} (hn : s.ls.newData = false) :
    s.newDataArm id d = s.newData id d := by
  simp [State.newDataArm, hn]

/-- OVERRUN under `HOLD_OFF` (R237). -/
theorem State.newDataArm_of_holdOff {s : State} {id : Half} {d : List Byte} (hn : s.ls.newData = true)
    (ho : s.cfg.overrun = .holdOff) :
    s.newDataArm id d = State.roundEnd { s with cnt := { s.cnt with overrun := bump s.cnt.overrun } } := by
  simp [State.newDataArm, hn, ho]

/-- OVERRUN under `OVERWRITE` (R237). -/
theorem State.newDataArm_of_overwrite {s : State} {id : Half} {d : List Byte} (hn : s.ls.newData = true)
    (ho : s.cfg.overrun = .overwrite) :
    s.newDataArm id d = State.newData { s with cnt := { s.cnt with overrun := bump s.cnt.overrun } } id d := by
  simp [State.newDataArm, hn, ho]

/-- CLASSIFY of a DATA frame (R234 to R237). -/
theorem fires_of_execData {s t : State} {f : Frame} (hd : s.dsp = .recv) (hr : s.rxr = .frame f)
    (hf : f.flags = 0x00#8) (h : execData f.id f.payload s = .next t) : Fires .dispatch s t := by
  simp only [execData, State.classify, if_pos hd] at h
  cases h
  split
  · next hdup => exact .duplicate hd hr (.inl hf) hdup
  next hdup =>
  have hdup : s.isDuplicate f.id = false := Bool.eq_false_iff.mpr hdup
  cases hn : s.ls.newData with
  | false =>
    rw [State.newDataArm_of_released (s := s.classified) hn]
    exact .newData hd hr hf hdup hn
  | true =>
    cases ho : s.cfg.overrun with
    | holdOff =>
      rw [State.newDataArm_of_holdOff (s := s.classified) hn ho]
      exact .heldOff hd hr hf hdup hn ho
    | overwrite =>
      rw [State.newDataArm_of_overwrite (s := s.classified) hn ho]
      exact .overwritten hd hr hf hdup hn ho

/-- CLASSIFY of an END frame (R234 to R236). -/
theorem fires_of_execEnd {s t : State} {f : Frame} (hd : s.dsp = .recv) (hr : s.rxr = .frame f)
    (hf : f.flags = 0x40#8) (h : execEnd f.id f.payload s = .next t) : Fires .dispatch s t := by
  simp only [execEnd, State.classify, if_pos hd] at h
  cases h
  split
  · next hdup => exact .duplicate hd hr (.inr hf) hdup
  · next hdup => exact .newEnd hd hr hf (Bool.eq_false_iff.mpr hdup)

/-- CLASSIFY of an ACK frame (R233). -/
theorem fires_of_execAck {s t : State} {f : Frame} (hd : s.dsp = .recv) (hr : s.rxr = .frame f)
    (hf : f.flags = 0x80#8) (h : execAck f.id f.payload s = .next t) : Fires .dispatch s t := by
  simp only [execAck, State.classify, if_pos hd] at h
  cases h
  unfold State.ackArm
  split
  · next hm => exact .ackMatched hd hr hf hm.1 hm.2
  · exact .ackStale hd hr hf

/-- The dispatcher's transition with a frame in the slot (R231). -/
theorem fires_of_classify {s t : State} {f : Frame} {i : Instr} (hd : s.dsp = .recv) (hr : s.rxr = .frame f)
    (hi : f.toInstr = some i) (h : exec i s = .next t) : Fires .dispatch s t := by
  obtain ⟨k, hk, rfl⟩ := Option.map_eq_some_iff.mp hi
  have hf := Kind.flags_of_ofFlags hk
  cases k with
  | data => exact fires_of_execData hd hr hf h
  | ack => exact fires_of_execAck hd hr hf h
  | fin => exact fires_of_execEnd hd hr hf h
  | reset =>
    change execReset f.id f.payload s = .next t at h
    simp only [execReset, State.classify, if_pos hd] at h
    cases h
    exact .resetFrame hd hr hf

/-- A legal command word (R263 to R267). -/
theorem fires_of_command {s t : State} {v : Word} {i : Instr} (hv : decodeCmd v = .ok i) (h : exec i s = .next t) :
    Fires (.busWrite 0x0000#16 v) s t := by
  obtain ⟨-, ⟨hop, harg, rfl⟩ | ⟨hop, rfl⟩ | ⟨hop, harg, rfl⟩ | ⟨hop, harg, rfl⟩⟩ := decodeCmd_cases hv
  · cases h
    exact .writeIgnored _ v s
  · simp only [exec, execSend] at h
    split at h
    · next hs =>
      cases h
      exact .commandRefused (.inr (.inr (.inr (.inl ⟨hop, (s.sendRefused_iff _).mp hs⟩))))
    · next hs => cases h; exact .send _ _ (by simpa using hs)
  · simp only [exec, execDack] at h
    obtain rfl := decodeCmd_eq_dack hv
    split at h
    · next hs => cases h; exact .commandRefused (.inr (.inr (.inr (.inr (.inl ⟨hop, hs⟩)))))
    · next hs => cases h; exact .dack (by simpa using hs)
  · simp only [exec, execStartRx] at h
    split at h
    · next hs =>
      cases h
      exact .commandRefused (.inr (.inr (.inr (.inr (.inr ⟨hop, by simpa using hs⟩)))))
    · next hs =>
      cases h
      obtain ⟨hs1, hs2⟩ : s.fatal = false ∧ s.dsp = .off := by simpa using hs
      exact .startRx v hs1 hs2

/-! ### Bus accesses -/

/-- A read (R268, R270, R261). -/
theorem fires_busRead (a : HostAddr) (s : State) : Fires (.busRead a) s (s.busRead a) := by
  unfold State.busRead
  split
  · next w hw => exact .read hw
  · next hw =>
    refine .readRefused (target_refused ?_)
    cases ht : target s.cfg a <;> rw [ht] at hw <;> simp [State.readTarget] at hw ⊢

/-- A write (R83, R260, R261, R266, R269, R271). -/
theorem fires_of_busWrite {a : HostAddr} {v : Word} {s t : State} (h : step (chosen (.busWrite a v) s) = .next t) :
    Fires (.busWrite a v) s t := by
  rw [step_enabled rfl] at h
  simp only [fire, State.busWrite] at h
  cases ht : target s.cfg a <;> simp only [ht] at h
  case misaligned => cases h; exact .writeRefused (.inl (target_refused (.inl ht)))
  case unmapped => cases h; exact .writeRefused (.inl (target_refused (.inr ht)))
  case cmd =>
    obtain rfl := target_eq_cmd_or_status.1 ht
    cases hv : decodeCmd v with
    | error x =>
      rw [hv] at h
      cases h
      refine .commandRefused ?_
      rcases decodeCmd_error hv with h | h | h
      · exact .inl h
      · exact .inr (.inl h)
      · exact .inr (.inr (.inl h))
    | ok i =>
      rw [hv] at h
      exact fires_of_command hv h
  case status =>
    obtain rfl := target_eq_cmd_or_status.2 ht
    cases h
    exact .writeStatus v s
  case txLen =>
    cases h
    unfold State.writeTxLen
    split
    · next hb => exact .writeRefused (.inr ⟨hb, .inl (target_eq_txLen ht)⟩)
    · next hb => exact .writeTxLen a v (Bool.eq_false_iff.mpr hb)
  case irqEn => cases h; exact .writeIrqEn a v s
  case txBuf i =>
    cases h
    unfold State.writeTxBuf
    split
    · next hb => exact .writeRefused (.inr ⟨hb, .inr (target_eq_txBuf_window ht)⟩)
    · next hb =>
      obtain ⟨hi, hi'⟩ := target_eq_txBuf ht
      exact .writeTxBuf a v (Bool.eq_false_iff.mpr hb) hi hi'
  all_goals cases h; exact .writeIgnored a v s

/-! ### The serializer's transitions -/

/-- TX_TAKE (R146). -/
theorem fires_of_txTake {s t : State} (hb : s.ser = .busy) (h : s.txTake = .next t) : Fires .txTake s t := by
  obtain ⟨hp, ho, rfl⟩ | ⟨hp, _, rfl, ⟨ho, hs, rfl⟩ | ⟨ho, hs, rfl⟩ | ⟨ho, hs, rfl⟩⟩ := State.txTake_cases h
  · exact .byteTaken hb ho hp
  all_goals simp only [State.txFrameLen, ho] at hp
  · exact .attemptDone hb ho hs hp
  · exact .resetSent hb ho hs hp
  · exact .ackSent hb ho hs hp

/-- TX_FAIL (R147). -/
theorem fires_of_txFail {e : Event} {s t : State} (he : s.FrameFails e) (hb : s.ser = .busy) (h : s.txFail = .next t) :
    Fires e s t := by
  obtain ⟨_, rfl, ⟨ho, hs, rfl⟩ | ⟨ho, hs, rfl⟩ | ⟨ho, hs, rfl⟩⟩ := State.txFail_cases h
  · exact .attemptFailed he hb ho hs
  · exact .resetFailed he hb ho hs
  · exact .ackFailed he hb ho hs

/-! ### One step -/

/-- MISS or CLASSIFY (R230, R231). -/
theorem fires_of_dispatch {s t : State} (hen : enabled .dispatch s = true)
    (h : step (chosen .dispatch s) = .next t) : Fires .dispatch s t := by
  obtain ⟨hd, hr⟩ : s.dsp = .recv ∧ s.rxr ≠ .empty := by simpa [enabled] using hen
  rw [step_enabled hen] at h
  simp only [fire, State.dispatch] at h
  cases hx : s.rxr with
  | empty => exact absurd hx hr
  | timeout => rw [hx] at h; cases h; exact .missTimeout hd hx
  | reject r => rw [hx] at h; cases h; exact .missReject hd hx
  | frame f =>
    simp only [hx] at h
    cases hi : f.toInstr with
    | none => rw [hi] at h; cases h
    | some i => rw [hi] at h; exact fires_of_classify hd hx hi h

/-- Every step of a chosen event is one of the transitions. -/
theorem fires_of_step {e : Event} {s t : State} (h : step (chosen e s) = .next t) : Fires e s t := by
  cases hen : enabled e s with
  | false => rw [step_disabled hen] at h; cases h; exact .spent hen
  | true =>
    have hfire := (step_enabled hen).symm.trans h
    cases e with
    | arrive b => cases hfire; exact .arrive b s
    | rxByte =>
      simp only [enabled, Bool.and_eq_true, State.rxReady_iff] at hen
      cases hx : s.rxStream with
      | nil => simp [hx] at hen
      | cons b rest =>
        cases hfire
        rw [State.rxByte, hx]
        exact .rxByte hen.1.1 hen.1.2 hx
    | rxErr => cases hfire; exact .rxErr (s.rxReady_iff.mp hen).1 (s.rxReady_iff.mp hen).2
    | rxTimeout =>
      simp only [enabled, Bool.and_eq_true, State.rxReady_iff, beq_iff_eq] at hen
      cases hfire
      exact .rxTimeout hen.1.1 hen.1.2 hen.2
    | txTake => exact fires_of_txTake (by simpa [enabled, State.txValid] using hen) hfire
    | txErr => exact fires_of_txFail (.inl rfl) (by simpa [enabled, State.txValid] using hen) hfire
    | txStall =>
      obtain ⟨hb, ht⟩ : s.ser = .busy ∧ s.stallTmr = some 0 := by simpa [enabled, State.txValid] using hen
      exact fires_of_txFail (.inr ⟨rfl, ht⟩) hb hfire
    | ackTimeout =>
      obtain ⟨⟨hs, ha⟩, ht⟩ : (s.snd = .wait ∧ s.ls.awaitAck = true) ∧ s.ackTmr = some 0 := by
        simpa [enabled] using hen
      cases hfire
      exact .ackTimeout hs ha ht
    | busWrite a v => exact fires_of_busWrite h
    | busRead a => cases hfire; exact fires_busRead a s
    | reset => cases hfire; exact .reset s
    | tick => cases hfire; exact .tick s
    | grant =>
      obtain ⟨⟨hs, hq⟩, hf⟩ : (s.ser = .idle ∧ (s.ackReq = true ∨ s.sndReq = true)) ∧ s.fatal = false := by
        simpa [enabled] using hen
      cases hfire
      exact .grant hs hq hf
    | acked =>
      obtain ⟨hs, ha⟩ : s.snd = .wait ∧ s.ls.awaitAck = false := by simpa [enabled] using hen
      cases hfire
      exact .acked hs ha
    | dispatch => exact fires_of_dispatch hen h

/-- Every step is a step of a chosen event: the agenda's or the free choice. -/
theorem step_eq_step_chosen (s : State) : step s = step (chosen s.choose.1 s.choose.2) := rfl

end Sys2Proof.Machine

/-! PROOFS. The cells of memory after a run of writes. -/

namespace Sys2Proof.Machine

/-- The cells after a run of writes: one for each byte, and old ones. -/
theorem Memory.mem_writeRun {m : Memory} {a : Nat} {d : List Byte} {c : Host.Cell}
    (h : c ∈ Memory.writeRun m a d) : (∃ j, j < d.length ∧ c.1 = a + 4 * j) ∨ c ∈ m := by
  induction d generalizing m a with
  | nil => exact .inr h
  | cons b d ih =>
    rcases ih h with ⟨j, hj, hc⟩ | hc
    · exact .inl ⟨j + 1, by simpa using hj, by omega⟩
    · rcases Memory.mem_write hc with rfl | hc
      · exact .inl ⟨0, by simp, by simp⟩
      · exact .inr hc

end Sys2Proof.Machine

/-! PROOFS. The parts of the invariant under the shared operations (R148, R201, R239, R302). -/

namespace Sys2Proof.Safety

open Sys2Proof.Machine

/-! ### What a part rests on -/

/-- What the fatal part rests on; a timer may count down while it stays disarmed. -/
theorem FatalInv.congr {s t : State} (h : FatalInv s) (h1 : t.snd = s.snd) (h2 : t.dsp = s.dsp)
    (h3 : t.fatal = s.fatal) (h4 : t.fatalCause = s.fatalCause) (h5 : t.streamClose = s.streamClose)
    (h6 : t.ser = s.ser) (h7 : t.ackReq = s.ackReq) (h8 : t.sndReq = s.sndReq) (h9 : t.rxr = s.rxr)
    (h10 : s.ackTmr = none → t.ackTmr = none) (h11 : s.rxTmr = none → t.rxTmr = none)
    (h12 : s.stallTmr = none → t.stallTmr = none) : FatalInv t := by
  obtain ⟨a, b, c, d, e⟩ := h
  constructor <;> simp only [h1, h2, h3, h4, h5, h6, h7, h8, h9] <;> try assumption
  intro hf
  obtain ⟨e1, e2, e3, e4, e5, e6, e7⟩ := e hf
  exact ⟨e1, e2, e3, e4, h10 e5, h11 e6, h12 e7⟩

/-- A block whose dispatcher has not halted runs. -/
theorem FatalInv.running_of_dsp {s : State} (h : FatalInv s) (hd : s.dsp ≠ .halt) : s.fatal = false :=
  Bool.eq_false_iff.mpr fun hf => hd (h.dsp_halt.mpr hf)

/-- A block whose sender has not halted runs. -/
theorem FatalInv.running_of_snd {s : State} (h : FatalInv s) (hs : s.snd ≠ .halt) : s.fatal = false :=
  Bool.eq_false_iff.mpr fun hf => hs (h.snd_halt.mpr hf)

/-- The registers no part of the invariant speaks of. -/
theorem Inv.bookkeeping {s : State} {txDone txOk cmdErr busErr : Bool} {txLen : BitVec 13} {irqEn : BitVec 5}
    {lastErr : BitVec 3} {cnt : Counters} {busRdata : Word} {rxStream : List Byte} {agenda : List Event}
    {draws epoch : Nat} (h : Inv s) :
    Inv { s with
      txDone := txDone, txOk := txOk, cmdErr := cmdErr, busErr := busErr, txLen := txLen, irqEn := irqEn
      lastErr := lastErr, cnt := cnt, busRdata := busRdata, rxStream := rxStream, agenda := agenda, draws := draws
      epoch := epoch } where
  cfg := h.cfg
  mem := h.mem.congr rfl rfl
  fatal := h.fatal.congr rfl rfl rfl rfl rfl rfl rfl rfl rfl id id id
  ser := h.ser.congr rfl rfl rfl rfl rfl rfl rfl rfl rfl rfl rfl Iff.rfl Iff.rfl
  snd := h.snd.congr rfl rfl rfl rfl rfl rfl rfl rfl rfl (.inl rfl) rfl rfl
  dsp := h.dsp.congr rfl rfl rfl rfl rfl (fun _ => rfl) (.inl rfl) rfl rfl
  des := h.des.congr rfl rfl rfl rfl rfl rfl rfl rfl rfl rfl rfl

/-! ### Memory -/

/-- A byte of `TXBUF` written. -/
theorem MemInv.write {s : State} (h : MemInv s) {i : Nat} (b : Byte) (hi : i < s.cfg.maxPayload) :
    MemInv { s with mem := Memory.write s.mem (txBufAddr i) b } where
  canonical := Memory.write_wf _ _ h.canonical
  window c hc := by
    rcases Memory.mem_write hc with rfl | hc
    · exact ⟨i, hi, .inl rfl⟩
    · exact h.window c hc

/-- A payload written to `RXBUF`. -/
theorem MemInv.writeRun {s : State} (h : MemInv s) {d : List Byte} (hd : d.length ≤ s.cfg.maxPayload) :
    MemInv { s with mem := Memory.writeRun s.mem (rxBufAddr 0) d } where
  canonical := Memory.writeRun_wf _ _ h.canonical
  window c hc := by
    rcases Memory.mem_writeRun hc with ⟨j, hj, hc⟩ | hc
    · exact ⟨j, by simp only; omega, .inr (by simpa [rxBufAddr] using hc)⟩
    · exact h.window c hc

/-! ### The end of a round -/

/-- The state in which a round has just ended: the invariant holds but for the dispatcher's own registers, which
`round_end()` or a queued ACK is about to set. -/
structure RoundOver (s : State) : Prop where
  cfg : s.cfg.Wf
  mem : MemInv s
  fatal : FatalInv s
  running : s.fatal = false
  ser : SerInv { s with dsp := .recv }
  snd : SndInv s
  miss_le : s.rxMiss.toNat ≤ s.cfg.maxAttempts
  recorded : s.ls.newData = true ∨ s.ls.peerEnd = true → s.ls.lrValid = true
  rx_len : s.ls.rxLen.toNat ≤ s.cfg.maxPayload
  slot : s.rxr = .empty

/-- A round that is over, with the dispatcher and its deserializer set anew, and no ACK queued. -/
theorem RoundOver.inv {s : State} {dsp : DspState} {des : DesState} {winN huntCnt candN : Nat} {candPl : Half}
    {rxr : RoundResult} {rxTmr : Option Nat} (h : RoundOver s) (hh : dsp ≠ .halt) (ha : dsp ≠ .ack)
    (hdsp : DspInv { s with dsp := dsp })
    (hdes : DesInv { s with
      dsp := dsp, des := des, winN := winN, huntCnt := huntCnt, candN := candN, candPl := candPl, rxr := rxr
      rxTmr := rxTmr }) :
    Inv { s with
      dsp := dsp, des := des, winN := winN, huntCnt := huntCnt, candN := candN, candPl := candPl, rxr := rxr
      rxTmr := rxTmr } where
  cfg := h.cfg
  mem := h.mem.congr rfl rfl
  fatal := h.fatal.of_running h.running (h.fatal.running h.running).1 hh rfl rfl rfl
  ser := h.ser.congr rfl rfl rfl rfl rfl rfl rfl rfl rfl rfl rfl Iff.rfl (by simp [ha])
  snd := h.snd.congr rfl rfl rfl rfl rfl rfl rfl rfl rfl (.inl rfl) rfl rfl
  dsp := hdsp.congr rfl rfl rfl rfl rfl (fun _ => rfl) (.inl rfl) rfl rfl
  des := hdes

/-- `round_end()` (R239) gives a state with the invariant. -/
theorem RoundOver.inv_roundEnd {s : State} (h : RoundOver s) : Inv s.roundEnd := by
  rcases s.roundEnd_cases with ⟨hp, hl, e⟩ | ⟨-, hm, e⟩ | ⟨-, hm, e⟩ <;> rw [e]
  · refine h.inv (by simp) (by simp) ?_ (.of_stopped h.slot (by simp))
    constructor
    case recorded => exact h.recorded
    all_goals simp [h.miss_le, h.rx_len, hp, hl]
  · refine h.inv (by simp) (by simp) ?_ (.of_stopped h.slot (by simp))
    constructor
    case recorded => exact h.recorded
    all_goals simp [hm, h.rx_len]
  · refine h.inv (by simp) (by simp) ?_ (.of_fresh rfl rfl rfl rfl rfl)
    constructor
    case recorded => exact h.recorded
    case recv_miss => exact fun _ => lt_of_le_of_ne h.miss_le hm
    all_goals simp [h.miss_le, h.rx_len]

/-- A queued ACK (R142) gives a state with the invariant. -/
theorem RoundOver.inv_queueAck {s : State} {id : Half} (h : RoundOver s) (hid : id = 0#16 ∨ id = 1#16)
    (hm : s.rxMiss = 0) : Inv (s.queueAck id) where
  cfg := h.cfg
  mem := h.mem.congr rfl rfl
  fatal := h.fatal.of_running h.running (h.fatal.running h.running).1 (by simp) rfl rfl rfl
  ser := by
    have hown : s.txOwner ≠ .dsp := fun ho => by cases (h.ser.owner_dsp ho).1
    have himg : s.txOwner = .snd ∨ s.txOwner = .none := by cases ho : s.txOwner <;> simp_all
    exact {
      owner_none := h.ser.owner_none
      owner_snd := h.ser.owner_snd
      owner_dsp := fun ho => absurd ho hown
      snd_req := h.ser.snd_req
      ack_req := fun _ => rfl
      snd_served := h.ser.snd_served
      dsp_served := fun _ => .inl rfl
      wire := fun hb => by
        have := h.ser.wire hb
        rcases himg with ho | ho <;> simp_all [State.txImage]
      armed := h.ser.armed }
  snd := h.snd.congr rfl rfl rfl rfl rfl rfl rfl rfl rfl (.inl rfl) rfl rfl
  dsp := by
    constructor
    case recorded => exact h.recorded
    case ack_image => exact fun _ => ⟨id, hid, rfl⟩
    all_goals simp [hm, h.rx_len]
  des := .of_stopped h.slot (by simp)

/-- What `RoundOver` rests on, for the Link State, memory and the counters. -/
theorem RoundOver.update {s : State} {ls : LinkState} {mem : Memory} {cnt : Counters} (h : RoundOver s)
    (hmem : MemInv { s with mem := mem }) (h1 : ls.nextSendId = s.ls.nextSendId) (h2 : ls.outId = s.ls.outId)
    (h3 : ls.awaitAck = s.ls.awaitAck ∨ ls.awaitAck = false) (h4 : ls.localEnd = s.ls.localEnd)
    (h5 : ls.newData = true ∨ ls.peerEnd = true → ls.lrValid = true) (h6 : ls.rxLen.toNat ≤ s.cfg.maxPayload) :
    RoundOver { s with ls := ls, mem := mem, cnt := cnt } where
  cfg := h.cfg
  mem := hmem.congr rfl rfl
  fatal := h.fatal.congr rfl rfl rfl rfl rfl rfl rfl rfl rfl id id id
  running := h.running
  ser := h.ser.congr rfl rfl rfl rfl rfl rfl rfl rfl rfl rfl rfl Iff.rfl Iff.rfl
  snd := h.snd.congr rfl rfl rfl rfl rfl rfl rfl h1 h2 h3 h4 rfl
  miss_le := h.miss_le
  recorded := h5
  rx_len := h6
  slot := h.slot

/-- The counters are free. -/
theorem RoundOver.count {s : State} {cnt : Counters} (h : RoundOver s) : RoundOver { s with cnt := cnt } :=
  h.update (h.mem.congr rfl rfl) rfl rfl (.inl rfl) rfl h.recorded h.rx_len

/-- A new DATA unit's record and payload (R236). -/
theorem RoundOver.deliver {s : State} {id : Half} {d : List Byte} (h : RoundOver s)
    (hd : d.length ≤ s.cfg.maxPayload) : RoundOver ((s.record id).deliver d) := by
  refine h.update ((h.mem.writeRun hd).congr rfl rfl) rfl rfl (.inl rfl) rfl (fun _ => rfl) (le_trans ?_ hd)
  simp [Nat.mod_le]

/-- A new END unit's record and latch (R236). -/
theorem RoundOver.latchPeerEnd {s : State} {id : Half} (h : RoundOver s) : RoundOver (s.record id).latchPeerEnd :=
  h.update (h.mem.congr rfl rfl) rfl rfl (.inl rfl) rfl (fun _ => rfl) h.rx_len

/-- The awaited ACK has come (R233). -/
theorem RoundOver.clearAwait {s : State} (h : RoundOver s) :
    RoundOver { s with ls := { s.ls with awaitAck := false } } :=
  h.update (h.mem.congr rfl rfl) rfl rfl (.inr rfl) rfl h.recorded h.rx_len

/-! ### The fatal state -/

/-- Entering the fatal state (R302), whatever the serializer and the deserializer were doing. -/
theorem inv_raiseFatal {s : State} {c : FatalCause} (hc : c ≠ .none) (hcfg : s.cfg.Wf) (hmem : MemInv s)
    (hsnd : SndInv s) (hdsp : DspInv s) : Inv (s.raiseFatal c) where
  cfg := hcfg
  mem := hmem.congr rfl rfl
  fatal := by constructor <;> simp [hc]
  ser := by constructor <;> simp
  snd := by constructor <;> simp [hsnd.attempts_le, SndState.busy]
  dsp := by
    constructor
    case recorded => exact hdsp.recorded
    all_goals simp [hdsp.miss_le, hdsp.rx_len]
  des := .of_stopped rfl (by simp)

/-! ### The sender's queue -/

/-- The state in which the sender has no frame queued and none on the wire: the invariant holds but for the sender's
own registers, which its next transition is about to set. -/
structure SenderFree (s : State) : Prop where
  cfg : s.cfg.Wf
  mem : MemInv s
  fatal : FatalInv s
  running : s.fatal = false
  ser : SerInv { s with snd := .wait }
  owner : s.txOwner ≠ .snd
  snd : SndInv s
  dsp : DspInv s
  des : DesInv s

/-- An idle or waiting sender is free. -/
theorem Inv.senderFree {s : State} (h : Inv s) (hs : s.snd = .idle ∨ s.snd = .wait) : SenderFree s := by
  have hn : ¬(s.snd = .send ∨ s.snd = .reset) := by rcases hs with hs | hs <;> simp [hs]
  exact {
    cfg := h.cfg
    mem := h.mem
    fatal := h.fatal
    running := h.fatal.running_of_snd (by rcases hs with hs | hs <;> simp [hs])
    ser := h.ser.congr rfl rfl rfl rfl rfl rfl rfl rfl rfl rfl rfl (by simpa using hn) Iff.rfl
    owner := fun ho => hn (h.ser.owner_snd ho).1
    snd := h.snd
    dsp := h.dsp
    des := h.des }

/-- A free sender queues a frame (R200, R204, R206, R208). -/
theorem SenderFree.inv_queue {s : State} {snd : SndState} {img : List Byte} {len : Nat} {id : BitVec 1}
    {final : Bool} {attempts : BitVec 5} {cnt : Counters} (h : SenderFree s) (hs : snd = .send ∨ snd = .reset)
    (hsnd : SndInv { s with
      snd := snd, sndImg := img, sndLen := len, sndId := id, sndFinal := final, attempts := attempts }) :
    Inv { s with
      snd := snd, sndImg := img, sndLen := len, sndId := id, sndFinal := final, attempts := attempts, cnt := cnt
      sndReq := true } where
  cfg := h.cfg
  mem := h.mem.congr rfl rfl
  fatal := h.fatal.of_running h.running (by rcases hs with rfl | rfl <;> simp) (h.fatal.running h.running).2 rfl rfl
    rfl
  ser := { h.ser with
    owner_snd := fun ho => absurd ho h.owner
    snd_req := fun _ => hs
    snd_served := fun _ => .inl rfl
    wire := fun hb => by
      have := h.ser.wire hb
      have hown := h.owner
      cases ho : s.txOwner <;> simp_all [State.txImage] }
  snd := hsnd.congr rfl rfl rfl rfl rfl rfl rfl rfl rfl (.inl rfl) rfl rfl
  dsp := h.dsp.congr rfl rfl rfl rfl rfl (fun _ => rfl) (.inl rfl) rfl rfl
  des := h.des.congr rfl rfl rfl rfl rfl rfl rfl rfl rfl rfl rfl

/-- GIVE_UP, part 1 (R208), after the last attempt. -/
theorem SenderFree.inv_giveUp {s : State} {attempts : BitVec 5} (h : SenderFree s)
    (ha : attempts.toNat = s.cfg.maxAttempts) (hl : s.ls.localEnd = false) :
    Inv (State.giveUp { s with attempts := attempts }) :=
  h.inv_queue (.inr rfl) (by constructor <;> simp [ha, hl])

/-- Another attempt queued (R204, R206). -/
theorem SenderFree.inv_again {s : State} {attempts : BitVec 5} {cnt : Counters} (h : SenderFree s)
    (hs : s.snd = .send ∨ s.snd = .wait) (ha : attempts.toNat < s.cfg.maxAttempts) (hl : s.ls.localEnd = false) :
    Inv { s with attempts := attempts, sndReq := true, cnt := cnt, snd := .send } := by
  refine h.inv_queue (.inl rfl) ?_
  constructor
  case image => exact fun _ => h.snd.image hs
  case id => exact fun _ => h.snd.id hs
  all_goals simp [hl, ha, Nat.le_of_lt ha]

end Sys2Proof.Safety

/-! PROOFS. Every transition keeps the invariant. -/

namespace Sys2Proof.Safety

open Sys2Proof.Machine

/-! ### Reset and the clock -/

/-- R341's values with any streams and choices, for admitted parameters. -/
theorem inv_resetWith {p : Params} {rx tx : List Byte} {agenda : List Event} {draws epoch : Nat} (hp : p.Wf) :
    Inv { State.resetWith p with
      rxStream := rx, txStream := tx, agenda := agenda, draws := draws, epoch := epoch } where
  cfg := hp
  mem := ⟨List.Pairwise.nil, fun _ hc => by cases hc⟩
  fatal := by constructor <;> simp [State.resetWith]
  ser := by constructor <;> simp [State.resetWith]
  snd := by constructor <;> simp [State.resetWith, SndState.busy, LinkState.reset]
  dsp := by constructor <;> simp [State.resetWith, LinkState.reset]
  des := .of_stopped rfl (by simp [State.resetWith])

/-- A timer within its bound stays within it. -/
theorem countDown_le {x : Option Nat} {b : Nat} (h : ∃ n, x = some n ∧ n ≤ b) :
    ∃ n, countDown x = some n ∧ n ≤ b := by
  obtain ⟨n, rfl, hn⟩ := h
  exact ⟨n - 1, rfl, by omega⟩

/-- A clock cycle (R65). -/
theorem Inv.countTimers {s : State} (h : Inv s) : Inv s.countTimers where
  cfg := h.cfg
  mem := h.mem.congr rfl rfl
  fatal := h.fatal.congr rfl rfl rfl rfl rfl rfl rfl rfl rfl (fun hx => by simp [hx, countDown])
    (fun hx => by simp [hx, countDown]) (fun hx => by simp [hx, countDown])
  ser := { h.ser with armed := fun hb => countDown_le (h.ser.armed hb) }
  snd := { h.snd with wait_armed := fun hs => countDown_le (h.snd.wait_armed hs) }
  dsp := h.dsp.congr rfl rfl rfl rfl rfl (fun _ => rfl) (.inl rfl) rfl rfl
  des := { h.des with armed := fun hd => countDown_le (h.des.armed hd) }

/-! ### Host accesses -/

/-- A `TXBUF` write (R269). -/
theorem Inv.writeTxBuf {s : State} {i : Nat} (h : Inv s) (b : Byte) (hi : i < s.cfg.maxPayload) :
    Inv { s with mem := Memory.write s.mem (txBufAddr i) b } where
  cfg := h.cfg
  mem := h.mem.write b hi
  fatal := h.fatal.congr rfl rfl rfl rfl rfl rfl rfl rfl rfl id id id
  ser := h.ser.congr rfl rfl rfl rfl rfl rfl rfl rfl rfl rfl rfl Iff.rfl Iff.rfl
  snd := h.snd.congr rfl rfl rfl rfl rfl rfl rfl rfl rfl (.inl rfl) rfl rfl
  dsp := h.dsp.congr rfl rfl rfl rfl rfl (fun _ => rfl) (.inl rfl) rfl rfl
  des := h.des.congr rfl rfl rfl rfl rfl rfl rfl rfl rfl rfl rfl

/-- DACK (R263). -/
theorem Inv.dack {s : State} (h : Inv s) : Inv { s with ls := { s.ls with newData := false } } where
  cfg := h.cfg
  mem := h.mem.congr rfl rfl
  fatal := h.fatal.congr rfl rfl rfl rfl rfl rfl rfl rfl rfl id id id
  ser := h.ser.congr rfl rfl rfl rfl rfl rfl rfl rfl rfl rfl rfl Iff.rfl Iff.rfl
  snd := h.snd.congr rfl rfl rfl rfl rfl rfl rfl rfl rfl (.inl rfl) rfl rfl
  dsp := h.dsp.congr rfl rfl rfl rfl rfl (fun _ => rfl) (.inr rfl) rfl rfl
  des := h.des.congr rfl rfl rfl rfl rfl rfl rfl rfl rfl rfl rfl

/-- START_RX (R265). -/
theorem Inv.startRx {s : State} (h : Inv s) (hf : s.fatal = false) (hd : s.dsp = .off) :
    Inv (State.roundStart { s with rxMiss := 0, dsp := .recv }) where
  cfg := h.cfg
  mem := h.mem.congr rfl rfl
  fatal := h.fatal.of_running hf (h.fatal.running hf).1 (by simp) rfl rfl rfl
  ser := h.ser.congr rfl rfl rfl rfl rfl rfl rfl rfl rfl rfl rfl Iff.rfl (by simp [hd])
  snd := h.snd.congr rfl rfl rfl rfl rfl rfl rfl rfl rfl (.inl rfl) rfl rfl
  dsp := by
    obtain ⟨-, ⟨hmax, -⟩, -⟩ := h.cfg
    constructor
    case recorded => exact h.dsp.recorded
    case recv_miss => exact fun _ => hmax
    all_goals simp [h.dsp.rx_len]
  des := .of_fresh rfl rfl rfl rfl rfl

/-- ACCEPT (R200). -/
theorem Inv.accept {s : State} {final nl : Bool} (h : Inv s) (hr : s.sendRefused nl = false) :
    Inv (s.accept final nl) := by
  have hn := mt (s.sendRefused_iff nl).mpr (Bool.eq_false_iff.mp hr)
  simp only [not_or, not_not, not_lt, Bool.not_eq_true] at hn
  obtain ⟨-, hs, hl, hlen⟩ := hn
  have hpay : (s.sendPayload nl).length ≤ s.cfg.maxPayload := by
    refine le_trans (le_of_eq ?_) hlen
    cases nl <;> simp [State.sendPayload, State.txBytes]
  obtain ⟨-, ⟨hmax, -⟩, -⟩ := h.cfg
  refine (h.senderFree (.inl hs)).inv_queue (.inl rfl) ?_
  constructor
  case image => exact fun _ => ⟨_, hpay, rfl, rfl⟩
  case send_attempts => exact fun _ => hmax
  all_goals simp [hl]

/-! ### The sender -/

/-- ACKED (R205). -/
theorem Inv.acked {s : State} (h : Inv s) (hs : s.snd = .wait) (ha : s.ls.awaitAck = false) : Inv s.acked where
  cfg := h.cfg
  mem := h.mem.congr rfl rfl
  fatal := by
    have hf := h.fatal.running_of_snd (by simp [hs])
    exact h.fatal.of_running hf (by simp) (h.fatal.running hf).2 rfl rfl rfl
  ser := h.ser.congr rfl rfl rfl rfl rfl rfl rfl rfl rfl rfl rfl (by simp [hs]) Iff.rfl
  snd := by constructor <;> simp [h.snd.attempts_le, ha, SndState.busy]
  dsp := h.dsp.congr rfl rfl rfl rfl rfl (fun hd => by simp [(h.dsp.done_ends hd).2]) (.inl rfl) rfl rfl
  des := h.des.congr rfl rfl rfl rfl rfl rfl rfl rfl rfl rfl rfl

/-- ACK_TIMEOUT (R206). -/
theorem Inv.ackTimeout {s : State} (h : Inv s) (hs : s.snd = .wait) : Inv s.ackTimeout := by
  have hl := h.snd.busy_end (by rw [hs]; rfl)
  rcases s.ackTimeout_cases with ⟨hm, e⟩ | ⟨hm, e⟩ <;> rw [e]
  · exact (h.senderFree (.inr hs)).inv_giveUp hm hl
  · exact (h.senderFree (.inr hs)).inv_again (.inr hs) (lt_of_le_of_ne h.snd.attempts_le hm) hl

/-! ### The serializer -/

/-- The sender's image holds `SND_LEN` bytes, at least a header, while a frame of the sender is queued or sent. -/
theorem SndInv.image_length {s : State} (h : SndInv s) (hs : s.snd = .send ∨ s.snd = .reset) :
    s.sndImg.length = s.sndLen ∧ hdrLen ≤ s.sndLen := by
  rcases hs with hs | hs
  · obtain ⟨d, -, hi, hl⟩ := h.image (.inl hs)
    rw [hi, hl, frameImage_length]
    exact ⟨rfl, Nat.le_add_right _ _⟩
  · obtain ⟨hi, hl⟩ := h.reset_image hs
    rw [hi, hl, frameImage_length]
    exact ⟨rfl, le_rfl⟩

/-- The byte on offer is a byte of the frame's image (R145). -/
theorem Inv.txPos_lt {s : State} (h : Inv s) (ho : s.txOwner ≠ .none) :
    s.txPos < s.txFrameLen ∧ s.txImage.length = s.txFrameLen := by
  cases hx : s.txOwner with
  | none => exact absurd hx ho
  | snd =>
    obtain ⟨hs, -, hp⟩ := h.ser.owner_snd hx
    simp only [State.txFrameLen, State.txImage, hx]
    exact ⟨hp, (h.snd.image_length hs).1⟩
  | dsp =>
    obtain ⟨hd, -, hp⟩ := h.ser.owner_dsp hx
    obtain ⟨id, -, hi⟩ := h.dsp.ack_image hd
    simp only [State.txFrameLen, State.txImage, hx]
    exact ⟨hp, by rw [hi, frameImage_length]; rfl⟩

/-- TX_TAKE before the last byte (R146): the byte taken stands behind the frame's earlier bytes. -/
theorem Inv.sendByte {s : State} (h : Inv s) (hb : s.ser = .busy) (ho : s.txOwner ≠ .none)
    (hp : s.txPos + 1 ≠ s.txFrameLen) : Inv s.sendByte := by
  obtain ⟨hpos, hlen⟩ := h.txPos_lt ho
  have hnext : s.txPos + 1 < s.txFrameLen := by omega
  exact {
    cfg := h.cfg
    mem := h.mem.congr rfl rfl
    fatal := by
      have hf : s.fatal = false := Bool.eq_false_iff.mpr fun hf => by simpa [hb] using (h.fatal.quiet hf).1
      exact h.fatal.of_running hf (h.fatal.running hf).1 (h.fatal.running hf).2 rfl rfl rfl
    ser := { h.ser with
      owner_snd := fun hx => by
        obtain ⟨hs, hq, -⟩ := h.ser.owner_snd hx
        rw [State.txFrameLen, show s.txOwner = .snd from hx] at hnext
        exact ⟨hs, hq, hnext⟩
      owner_dsp := fun hx => by
        obtain ⟨hd, hq, -⟩ := h.ser.owner_dsp hx
        rw [State.txFrameLen, show s.txOwner = .dsp from hx] at hnext
        exact ⟨hd, hq, hnext⟩
      wire := fun _ => by
        obtain ⟨pre, hw⟩ := h.ser.wire hb
        have hk : s.txPos < s.txImage.length := by omega
        change s.txImage.take (s.txPos + 1) <:+ s.txStream ++ [s.txData]
        rw [List.take_succ_eq_append_getElem hk, ← hw, State.txData, byteAt_eq_getElem _ _ hk]
        exact ⟨pre, (List.append_assoc _ _ _).symm⟩
      armed := fun _ => ⟨_, rfl, le_rfl⟩ }
    snd := h.snd.congr rfl rfl rfl rfl rfl rfl rfl rfl rfl (.inl rfl) rfl rfl
    dsp := h.dsp.congr rfl rfl rfl rfl rfl (fun _ => rfl) (.inl rfl) rfl rfl
    des := h.des.congr rfl rfl rfl rfl rfl rfl rfl rfl rfl rfl rfl }

/-- TX_GRANT (R144). -/
theorem Inv.grant {s : State} (h : Inv s) (hs : s.ser = .idle) (hq : s.ackReq = true ∨ s.sndReq = true)
    (hf : s.fatal = false) : Inv s.grant where
  cfg := h.cfg
  mem := h.mem.congr rfl rfl
  fatal := h.fatal.of_running hf (h.fatal.running hf).1 (h.fatal.running hf).2 rfl rfl rfl
  ser := by
    have hnone := h.ser.owner_none.mpr hs
    cases ha : s.ackReq with
    | true =>
      have hd := h.ser.ack_req ha
      constructor
      case snd_req => simpa [ha] using h.ser.snd_req
      case snd_served => simpa [ha, hnone] using h.ser.snd_served
      all_goals simp [ha, hd, hdrLen]
    | false =>
      have hr : s.sndReq = true := by simpa [ha] using hq
      have hx := h.ser.snd_req hr
      have hlen := (h.snd.image_length hx).2
      have hd : s.dsp ≠ .ack := fun hd => by simpa [ha, hnone] using h.ser.dsp_served hd
      have hpos : 0 < s.sndLen := lt_of_lt_of_le (by decide) hlen
      constructor <;> simp [ha, hx, hd, hpos]
  snd := h.snd.congr rfl rfl rfl rfl rfl rfl rfl rfl rfl (.inl rfl) rfl rfl
  dsp := h.dsp.congr rfl rfl rfl rfl rfl (fun _ => rfl) (.inl rfl) rfl rfl
  des := h.des.congr rfl rfl rfl rfl rfl rfl rfl rfl rfl rfl rfl

/-! ### The end of a frame -/

/-- A frame of the sender ends (R146, R147); where the wire and the stall timer stand no longer matters. -/
theorem Inv.unitFrameOver {s : State} {pos : Nat} {wire : List Byte} {tmr : Option Nat} {cnt : Counters} (h : Inv s)
    (ho : s.txOwner = .snd) :
    SenderFree { s with
      txPos := pos, txStream := wire, stallTmr := tmr, ser := .idle, txOwner := .none, cnt := cnt } := by
  obtain ⟨hs, hq, -⟩ := h.ser.owner_snd ho
  have hhalt : s.snd ≠ .halt := by rcases hs with hs | hs <;> simp [hs]
  have hf := h.fatal.running_of_snd hhalt
  exact {
    cfg := h.cfg
    mem := h.mem.congr rfl rfl
    fatal := h.fatal.of_running hf hhalt (h.fatal.running hf).2 rfl rfl rfl
    running := hf
    ser := by
      constructor
      case ack_req => exact h.ser.ack_req
      case dsp_served => simpa [ho] using h.ser.dsp_served
      all_goals simp [hq]
    owner := by simp
    snd := h.snd.congr rfl rfl rfl rfl rfl rfl rfl rfl rfl (.inl rfl) rfl rfl
    dsp := h.dsp.congr rfl rfl rfl rfl rfl (fun _ => rfl) (.inl rfl) rfl rfl
    des := h.des.congr rfl rfl rfl rfl rfl rfl rfl rfl rfl rfl rfl }

/-- An ACK frame ends (R238): the round is over. -/
theorem Inv.ackFrameOver {s : State} {pos : Nat} {wire : List Byte} {tmr : Option Nat} {cnt : Counters} (h : Inv s)
    (ho : s.txOwner = .dsp) :
    RoundOver { s with
      txPos := pos, txStream := wire, stallTmr := tmr, ser := .idle, txOwner := .none, cnt := cnt } := by
  obtain ⟨hd, hq, -⟩ := h.ser.owner_dsp ho
  have hf := h.fatal.running_of_dsp (by simp [hd])
  exact {
    cfg := h.cfg
    mem := h.mem.congr rfl rfl
    fatal := h.fatal.of_running hf (h.fatal.running hf).1 (h.fatal.running hf).2 rfl rfl rfl
    running := hf
    ser := by
      constructor
      case snd_req => exact h.ser.snd_req
      case snd_served => simpa [ho] using h.ser.snd_served
      all_goals simp [hq]
    snd := h.snd.congr rfl rfl rfl rfl rfl rfl rfl rfl rfl (.inl rfl) rfl rfl
    miss_le := h.dsp.miss_le
    recorded := h.dsp.recorded
    rx_len := h.dsp.rx_len
    slot := by
      by_contra hr
      simpa [hd] using h.des.slot hr }

/-- The count of attempts, while one more is admitted, does not wrap (R61). -/
theorem attempts_succ {p : Params} {a : BitVec 5} (hp : p.Wf) (h : a.toNat < p.maxAttempts) :
    (a + 1).toNat = a.toNat + 1 := by
  obtain ⟨-, ⟨-, hmax⟩, -⟩ := hp
  rw [BitVec.toNat_add]
  exact Nat.mod_eq_of_lt (by simp; omega)

/-- ATTEMPT_DONE (R203). -/
theorem SenderFree.inv_attemptDone {s : State} (h : SenderFree s) (hs : s.snd = .send) :
    Inv s.attemptDone where
  cfg := h.cfg
  mem := h.mem.congr rfl rfl
  fatal := h.fatal.of_running h.running (by simp) (h.fatal.running h.running).2 rfl rfl rfl
  ser := h.ser.congr rfl rfl rfl rfl rfl rfl rfl rfl rfl rfl rfl Iff.rfl Iff.rfl
  snd := by
    have ha := h.snd.send_attempts hs
    have hsucc := attempts_succ h.cfg ha
    have hl := h.snd.busy_end (by rw [hs]; rfl)
    constructor
    case attempts_le => exact hsucc.trans_le ha
    case image => exact fun _ => h.snd.image (.inl hs)
    case id => exact fun _ => h.snd.id (.inl hs)
    case wait_attempts => exact fun _ => hsucc.ge.trans' (Nat.le_add_left _ _)
    all_goals simp [hl]
  dsp := h.dsp.congr rfl rfl rfl rfl rfl (fun _ => rfl) (.inl rfl) rfl rfl
  des := h.des.congr rfl rfl rfl rfl rfl rfl rfl rfl rfl rfl rfl

/-- ATTEMPT_FAIL (R204). -/
theorem SenderFree.inv_attemptFail {s : State} (h : SenderFree s) (hs : s.snd = .send) : Inv s.attemptFail := by
  have hsucc := attempts_succ h.cfg (h.snd.send_attempts hs)
  have ha := h.snd.send_attempts hs
  have hl := h.snd.busy_end (by rw [hs]; rfl)
  rcases s.attemptFail_cases with ⟨hm, e⟩ | ⟨hm, e⟩ <;> rw [e]
  · exact h.inv_giveUp hm hl
  · have := h.inv_again (cnt := { s.cnt with retx := bump s.cnt.retx }) (attempts := s.attempts + 1) (.inl hs)
      (by omega) hl
    rwa [← hs] at this

/-- The sender's RESET frame ends (R208). -/
theorem SenderFree.inv_exhausted {s : State} (h : SenderFree s) : Inv (s.raiseFatal .exhausted) :=
  inv_raiseFatal (by simp) h.cfg h.mem h.snd h.dsp

/-! ### The deserializer -/

/-- A transition of the deserializer alone: the other units' parts stay. -/
theorem Inv.deserializer {s : State} {des : DesState} {win cand : List Byte} {winN huntCnt candN : Nat}
    {candPl : Half} {rxr : RoundResult} {rxTmr : Option Nat} (h : Inv s) (hd : s.dsp = .recv)
    (hdes : DesInv { s with
      des := des, win := win, winN := winN, huntCnt := huntCnt, cand := cand, candN := candN, candPl := candPl
      rxr := rxr, rxTmr := rxTmr }) :
    Inv { s with
      des := des, win := win, winN := winN, huntCnt := huntCnt, cand := cand, candN := candN, candPl := candPl
      rxr := rxr, rxTmr := rxTmr } where
  cfg := h.cfg
  mem := h.mem.congr rfl rfl
  fatal := by
    have hf := h.fatal.running_of_dsp (by simp [hd])
    exact h.fatal.of_running hf (h.fatal.running hf).1 (h.fatal.running hf).2 rfl rfl rfl
  ser := h.ser.congr rfl rfl rfl rfl rfl rfl rfl rfl rfl rfl rfl Iff.rfl Iff.rfl
  snd := h.snd.congr rfl rfl rfl rfl rfl rfl rfl rfl rfl (.inl rfl) rfl rfl
  dsp := h.dsp.congr rfl rfl rfl rfl rfl (fun _ => rfl) (.inl rfl) rfl rfl
  des := hdes

/-- A round ends with a rejection (R182). -/
theorem DesInv.rejectRound {s : State} {r : Reject} (hd : s.dsp = .recv)
    (ht : ∃ n, s.rxTmr = some n ∧ n ≤ s.cfg.rxTimeout) : DesInv (s.rejectRound r) :=
  .of_result (by simp) hd (by simp) ht

/-- A round ends with the verdict on a whole candidate (R176 to R182). -/
theorem DesInv.validateCand {s : State} (hd : s.dsp = .recv) (ht : ∃ n, s.rxTmr = some n ∧ n ≤ s.cfg.rxTimeout)
    (hl : s.cand.length = hdrLen + s.candPl.toNat) (hp : s.candPl = be16 s.cand 10)
    (hm : s.candPl.toNat ≤ s.cfg.maxPayload) : DesInv s.validateCand := by
  unfold State.validateCand
  rw [← hl, List.take_length]
  split
  · exact .rejectRound hd ht
  · next f hf =>
    refine .of_result (by simp) hd (fun g hg => ?_) ht
    cases hg
    exact frameOk_of_validate hf (by rw [← hp, hl]) (by rw [← hp]; exact hm)

/-- A round that goes on hunting for the markers. -/
theorem DesInv.of_hunting {t : State} (hr : t.rxr = .empty) (hs : t.des = .hunt)
    (ht : ∃ n, t.rxTmr = some n ∧ n ≤ t.cfg.rxTimeout)
    (hh : t.winN ≤ 8 ∧ t.winN ≤ t.win.length ∧ (t.winN = 8 → t.win.length = 8) ∧ (t.winN < 8 → t.huntCnt = 0) ∧
      t.huntCnt < huntLimit t.cfg) : DesInv t where
  slot h := absurd hr h
  slot_frame f hf := by simp [hr] at hf
  armed _ := ht
  hunt _ _ _ := hh
  collect _ _ h := absurd hs h
  hdr _ _ h := by simp [hs] at h
  pay _ _ h := by simp [hs] at h

/-- A round that goes on collecting a candidate's bytes. -/
theorem DesInv.of_collecting {t : State} (hr : t.rxr = .empty) (hs : t.des ≠ .hunt)
    (ht : ∃ n, t.rxTmr = some n ∧ n ≤ t.cfg.rxTimeout)
    (hc : t.cand.length = t.candN ∧ be32 t.cand 0 = t.cfg.sync ∧ be32 t.cand 4 = t.cfg.sync)
    (hh : t.des = .hdr → 8 ≤ t.candN ∧ t.candN < hdrLen)
    (hp : t.des = .pay → hdrLen ≤ t.candN ∧ t.candN < hdrLen + t.candPl.toNat ∧ t.candPl = be16 t.cand 10 ∧
      t.candPl.toNat ≤ t.cfg.maxPayload) : DesInv t where
  slot h := absurd hr h
  slot_frame f hf := by simp [hr] at hf
  armed _ := ht
  hunt _ _ h := absurd h hs
  collect _ _ _ := hc
  hdr _ _ := hh
  pay _ _ := hp

/-- The hunt window after a byte (R171). -/
theorem slideWin_window {s : State} {b : Byte} (hn : s.winN ≤ 8) (hw : s.winN ≤ s.win.length)
    (hfull : s.winN = 8 → s.win.length = 8) (hcnt : s.winN < 8 → s.huntCnt = 0)
    (hlim : s.huntCnt < huntLimit s.cfg) :
    (s.slideWin b).winN ≤ 8 ∧ (s.slideWin b).win.length = (s.slideWin b).winN ∧
    ((s.slideWin b).winN < 8 → (s.slideWin b).huntCnt = 0) ∧ (s.slideWin b).huntCnt ≤ huntLimit s.cfg := by
  unfold State.slideWin
  split
  · next h8 =>
    have := hfull h8
    refine ⟨hn, ?_, ?_, ?_⟩ <;> simp <;> omega
  · next h8 =>
    have := hcnt (by omega)
    refine ⟨?_, ?_, ?_, ?_⟩ <;> simp <;> omega

/-- HUNT_BYTE (R171). -/
theorem DesInv.huntByte {s : State} {b : Byte} (h : DesInv s) (hd : s.dsp = .recv) (hr : s.rxr = .empty)
    (hs : s.des = .hunt) : DesInv (s.huntByte b) := by
  obtain ⟨hn, hw, hfull, hcnt, hlim⟩ := h.hunt hd hr hs
  have key := slideWin_window (s := s.armRx) (b := b) hn hw hfull hcnt hlim
  obtain ⟨w, n, c, e⟩ := s.armRx.slideWin_only b
  have ht : ∃ n, some s.cfg.rxTimeout = some n ∧ n ≤ s.cfg.rxTimeout := ⟨_, rfl, le_rfl⟩
  unfold State.huntByte
  rw [e] at key ⊢
  obtain ⟨kn, kw, kc, kl⟩ := key
  simp only at kn kw kc kl ⊢
  split
  · next hm =>
    simp only [State.syncMatch, Bool.and_eq_true, beq_iff_eq] at hm
    obtain ⟨⟨h8, m1⟩, m2⟩ := hm
    exact .of_collecting hr (by simp) ht ⟨kw.trans h8, m1, m2⟩ (fun _ => by simp [hdrLen]) (by simp)
  · split
    · exact .rejectRound hd ht
    · next hne => exact .of_hunting hr hs ht ⟨kn, kw.ge, kw.trans, kc, lt_of_le_of_ne kl hne⟩

/-- The candidate after a byte (R173, R175). -/
theorem pushCand_cand {s : State} {b : Byte} (hl : s.cand.length = s.candN) :
    (s.pushCand b).cand = s.cand ++ [b] := by
  simp [← hl]

/-- A candidate with its markers keeps them as it grows (R173, R175). -/
theorem pushCand_collect {s : State} {b : Byte} (hl : s.cand.length = s.candN) (h8 : 8 ≤ s.candN)
    (h1 : be32 s.cand 0 = s.cfg.sync) (h2 : be32 s.cand 4 = s.cfg.sync) :
    (s.pushCand b).cand.length = s.candN + 1 ∧ be32 (s.pushCand b).cand 0 = s.cfg.sync ∧
    be32 (s.pushCand b).cand 4 = s.cfg.sync := by
  rw [pushCand_cand hl, be32_append_left _ _ _ (by omega), be32_append_left _ _ _ (by omega)]
  exact ⟨by simp [hl], h1, h2⟩

/-- HDR_BYTE (R173, R174). -/
theorem DesInv.hdrByte {s : State} {b : Byte} (h : DesInv s) (hd : s.dsp = .recv) (hr : s.rxr = .empty)
    (hs : s.des = .hdr) : DesInv (s.hdrByte b) := by
  obtain ⟨hlen, hs1, hs2⟩ := h.collect hd hr (by simp [hs])
  obtain ⟨h8, h15⟩ := h.hdr hd hr hs
  have hc := pushCand_collect (b := b) hlen h8 hs1 hs2
  have ht : ∃ n, (s.pushCand b).rxTmr = some n ∧ n ≤ s.cfg.rxTimeout := ⟨_, rfl, le_rfl⟩
  unfold State.hdrByte
  simp only
  split
  · next hfull =>
    have hfull : s.candN + 1 = hdrLen := hfull
    split
    · exact .rejectRound hd ht
    next hle =>
    split
    · next h0 => exact .validateCand hd ht (by simp only at h0 ⊢; rw [h0, hc.1, hfull]; rfl) rfl (not_lt.mp hle)
    · next h0 =>
      have hpos : 0 < (be16 (s.pushCand b).cand 10).toNat :=
        Nat.pos_iff_ne_zero.mpr fun hz => h0 (BitVec.eq_of_toNat_eq hz)
      refine .of_collecting hr (by simp) ht hc (by simp) fun _ => ⟨hfull.ge, ?_, rfl, not_lt.mp hle⟩
      exact hfull.symm ▸ Nat.lt_add_of_pos_right hpos
  · next hfull =>
    have hfull : s.candN + 1 ≠ hdrLen := hfull
    refine .of_collecting hr (by simp [hs]) ht hc (fun _ => ?_) (by simp [hs])
    exact ⟨Nat.le_succ_of_le h8, lt_of_le_of_ne h15 hfull⟩

/-- PAY_BYTE (R175). -/
theorem DesInv.payByte {s : State} {b : Byte} (h : DesInv s) (hd : s.dsp = .recv) (hr : s.rxr = .empty)
    (hs : s.des = .pay) : DesInv (s.payByte b) := by
  obtain ⟨hlen, hs1, hs2⟩ := h.collect hd hr (by simp [hs])
  obtain ⟨h15, hlt, hpl, hm⟩ := h.pay hd hr hs
  have h15' : 15 ≤ s.candN := h15
  have hc := pushCand_collect (b := b) hlen (by omega) hs1 hs2
  have hpl' : s.candPl = be16 (s.pushCand b).cand 10 := by
    rw [pushCand_cand hlen, be16_append_left _ _ _ (by omega), hpl]
  have ht : ∃ n, (s.pushCand b).rxTmr = some n ∧ n ≤ s.cfg.rxTimeout := ⟨_, rfl, le_rfl⟩
  unfold State.payByte
  simp only
  split
  · next hfull => exact .validateCand hd ht (hc.1.trans hfull) hpl' hm
  · next hfull =>
    refine .of_collecting hr (by simp [hs]) ht hc (by simp [hs]) fun _ => ?_
    exact ⟨Nat.le_succ_of_le h15, lt_of_le_of_ne hlt hfull, hpl', hm⟩

/-- A byte taken (R171, R173, R175). -/
theorem DesInv.takeByte {s : State} {b : Byte} (h : DesInv s) (hd : s.dsp = .recv) (hr : s.rxr = .empty) :
    DesInv (s.takeByte b) := by
  unfold State.takeByte
  split
  · next hs => exact h.huntByte hd hr hs
  · next hs => exact h.hdrByte hd hr hs
  · next hs => exact h.payByte hd hr hs

/-- `rx_byte`. -/
theorem Inv.takeByte {s : State} {b : Byte} (h : Inv s) (hd : s.dsp = .recv) (hr : s.rxr = .empty) :
    Inv (s.takeByte b) := by
  have hdes := h.des.takeByte (b := b) hd hr
  obtain ⟨_, _, _, _, _, _, _, _, _, e⟩ := s.takeByte_only b
  rw [e] at hdes ⊢
  exact h.deserializer hd hdes

/-- RX_STREAM_ERR (R181). -/
theorem Inv.rxErr {s : State} (h : Inv s) (hd : s.dsp = .recv) : Inv s.rxErr :=
  h.deserializer hd (DesInv.rejectRound (r := .stream) hd (h.des.armed hd))

/-- RX_TIMEOUT (R180). -/
theorem Inv.rxTimeout {s : State} (h : Inv s) (hd : s.dsp = .recv) : Inv s.rxTimeout :=
  h.deserializer hd (DesInv.of_result (t := s.rxTimeout) (by simp) hd (by simp) (h.des.armed hd))

/-! ### The dispatcher -/

/-- A frame taken from the slot (R231): the round is over. -/
theorem Inv.classified {s : State} (h : Inv s) (hd : s.dsp = .recv) : RoundOver s.classified where
  cfg := h.cfg
  mem := h.mem.congr rfl rfl
  fatal := by
    have hf := h.fatal.running_of_dsp (by simp [hd])
    exact h.fatal.of_running hf (h.fatal.running hf).1 (h.fatal.running hf).2 rfl rfl rfl
  running := h.fatal.running_of_dsp (by simp [hd])
  ser := h.ser.congr rfl rfl rfl rfl rfl rfl rfl rfl rfl rfl rfl Iff.rfl (by simp [hd])
  snd := h.snd.congr rfl rfl rfl rfl rfl rfl rfl rfl rfl (.inl rfl) rfl rfl
  miss_le := by simp
  recorded := h.dsp.recorded
  rx_len := h.dsp.rx_len
  slot := rfl

/-- MISS (R230), for either result. -/
theorem Inv.miss {s : State} {cnt : Counters} {code : BitVec 3} (h : Inv s) (hd : s.dsp = .recv) :
    Inv (s.miss cnt code) := by
  have hr := h.classified hd
  have hm := attempts_succ h.cfg (h.dsp.recv_miss hd)
  have hlt := h.dsp.recv_miss hd
  exact RoundOver.inv_roundEnd {
    cfg := hr.cfg
    mem := hr.mem.congr rfl rfl
    fatal := hr.fatal.congr rfl rfl rfl rfl rfl rfl rfl rfl rfl id id id
    running := hr.running
    ser := hr.ser.congr rfl rfl rfl rfl rfl rfl rfl rfl rfl rfl rfl Iff.rfl Iff.rfl
    snd := hr.snd.congr rfl rfl rfl rfl rfl rfl rfl rfl rfl (.inl rfl) rfl rfl
    miss_le := hm.trans_le hlt
    recorded := hr.recorded
    rx_len := hr.rx_len
    slot := rfl }

/-- The id of a DATA or END frame in the slot is 0 or 1 (R102, R178). -/
theorem DesInv.slot_id {s : State} {f : Frame} (h : DesInv s) (hr : s.rxr = .frame f)
    (hf : f.flags = 0x00#8 ∨ f.flags = 0x40#8) : f.id = 0#16 ∨ f.id = 1#16 := by
  obtain ⟨-, hid | hid, -⟩ := h.slot_frame f hr
  · rcases hf with hf | hf <;> rw [hf] at hid <;> cases hid
  · exact hid

/-- DUPLICATE (R235). -/
theorem Inv.duplicate {s : State} {f : Frame} (h : Inv s) (hd : s.dsp = .recv) (hr : s.rxr = .frame f)
    (hf : f.flags = 0x00#8 ∨ f.flags = 0x40#8) : Inv (s.classified.duplicate f.id) :=
  (h.classified hd).count.inv_queueAck (h.des.slot_id hr hf) rfl

/-- NEW_UNIT for DATA (R236), whatever the counters. -/
theorem Inv.newData {s : State} {f : Frame} {cnt : Counters} (h : Inv s) (hd : s.dsp = .recv) (hr : s.rxr = .frame f)
    (hf : f.flags = 0x00#8) : Inv (State.newData { s.classified with cnt := cnt } f.id f.payload) := by
  obtain ⟨-, -, hlen, hmax⟩ := h.des.slot_frame f hr
  exact ((h.classified hd).count.deliver (hlen ▸ hmax)).inv_queueAck (h.des.slot_id hr (.inl hf)) rfl

/-- NEW_UNIT for END (R236). -/
theorem Inv.newEnd {s : State} {f : Frame} (h : Inv s) (hd : s.dsp = .recv) (hr : s.rxr = .frame f)
    (hf : f.flags = 0x40#8) : Inv (s.classified.newEnd f.id) :=
  (h.classified hd).latchPeerEnd.inv_queueAck (h.des.slot_id hr (.inr hf)) rfl

/-- RESET received (R232). -/
theorem Inv.resetFrame {s : State} (h : Inv s) (hd : s.dsp = .recv) : Inv (s.classified.raiseFatal .peerReset) := by
  have hr := h.classified hd
  obtain ⟨-, ⟨hmax, -⟩, -⟩ := h.cfg
  refine inv_raiseFatal (by simp) hr.cfg hr.mem hr.snd ?_
  constructor
  case recv_miss => exact fun _ => hmax
  case recorded => exact h.dsp.recorded
  case rx_len => exact h.dsp.rx_len
  all_goals simp [hd]

/-! ### Every transition -/

/-- Every transition keeps the invariant. -/
theorem Inv.fires {e : Event} {s t : State} (h : Inv s) (hfires : Fires e s t) : Inv t := by
  cases hfires with
  | spent => exact h
  | arrive b => exact h.bookkeeping
  | rxByte hd hr => exact (h.bookkeeping : Inv { s with rxStream := _ }).takeByte hd hr
  | rxErr hd => exact h.rxErr hd
  | rxTimeout hd => exact h.rxTimeout hd
  | byteTaken hb ho hp => exact h.sendByte hb ho hp
  | attemptDone _ ho hs => exact (h.unitFrameOver ho).inv_attemptDone hs
  | resetSent _ ho => exact (h.unitFrameOver ho).inv_exhausted
  | ackSent _ ho => exact (h.ackFrameOver ho).inv_roundEnd
  | attemptFailed _ _ ho hs => exact (h.unitFrameOver ho).inv_attemptFail hs
  | resetFailed _ _ ho => exact (h.unitFrameOver ho).inv_exhausted
  | ackFailed _ _ ho => exact (h.ackFrameOver ho).inv_roundEnd
  | ackTimeout hs => exact h.ackTimeout hs
  | acked hs ha => exact h.acked hs ha
  | grant hs hq hf => exact h.grant hs hq hf
  | tick => exact h.countTimers
  | reset => exact inv_resetWith h.cfg
  | read => exact h.bookkeeping
  | readRefused => exact h.bookkeeping
  | writeIgnored => exact h
  | writeRefused => exact h.bookkeeping
  | writeStatus => exact h.bookkeeping
  | writeTxLen => exact h.bookkeeping
  | writeIrqEn => exact h.bookkeeping
  | writeTxBuf _ _ _ hi => exact h.writeTxBuf _ hi
  | commandRefused => exact h.bookkeeping
  | send _ _ hr => exact h.accept hr
  | dack => exact h.dack
  | startRx _ hf hd => exact h.startRx hf hd
  | missTimeout hd => exact h.miss hd
  | missReject hd => exact h.miss hd
  | duplicate hd hr hf => exact h.duplicate hd hr hf
  | newData hd hr hf => exact h.newData hd hr hf
  | heldOff hd => exact (h.classified hd).count.inv_roundEnd
  | overwritten hd hr hf => exact h.newData hd hr hf
  | newEnd hd hr hf => exact h.newEnd hd hr hf
  | ackMatched hd => exact (h.classified hd).clearAwait.inv_roundEnd
  | ackStale hd => exact (h.classified hd).count.inv_roundEnd
  | resetFrame hd => exact h.resetFrame hd

/-- Settles O48: a step is a transition with its choice taken, and every transition keeps the invariant. -/
theorem everyStepKeepsInvariant : Obligations.EveryStepKeepsInvariant := by
  intro s t h hstep
  have hchoice : Inv s.choose.2 := by
    unfold State.choose
    split <;> exact h.bookkeeping
  exact hchoice.fires (fires_of_step ((step_eq_step_chosen s).symm.trans hstep))

end Sys2Proof.Safety

/-! PROOFS. What the operations that branch leave alone (R171, R204, R206, R239), field by field. -/

namespace Sys2Proof.Machine

/-- What `round_end()` leaves alone (R239). -/
@[simp] theorem State.roundEnd_fields (s : State) :
    s.roundEnd.cfg = s.cfg ∧ s.roundEnd.ls = s.ls ∧ s.roundEnd.snd = s.snd ∧ s.roundEnd.ser = s.ser ∧
    s.roundEnd.txDone = s.txDone ∧ s.roundEnd.txOk = s.txOk ∧ s.roundEnd.fatal = s.fatal ∧
    s.roundEnd.fatalCause = s.fatalCause ∧ s.roundEnd.cmdErr = s.cmdErr ∧ s.roundEnd.busErr = s.busErr ∧
    s.roundEnd.txLen = s.txLen ∧ s.roundEnd.irqEn = s.irqEn ∧ s.roundEnd.lastErr = s.lastErr ∧
    s.roundEnd.cnt = s.cnt ∧ s.roundEnd.mem = s.mem ∧ s.roundEnd.sndImg = s.sndImg ∧ s.roundEnd.sndLen = s.sndLen ∧
    s.roundEnd.sndId = s.sndId ∧ s.roundEnd.sndFinal = s.sndFinal ∧ s.roundEnd.attempts = s.attempts ∧
    s.roundEnd.rxMiss = s.rxMiss ∧ s.roundEnd.win = s.win ∧ s.roundEnd.cand = s.cand ∧
    s.roundEnd.txOwner = s.txOwner ∧ s.roundEnd.txPos = s.txPos ∧ s.roundEnd.ackImg = s.ackImg ∧
    s.roundEnd.ackReq = s.ackReq ∧ s.roundEnd.sndReq = s.sndReq ∧ s.roundEnd.ackTmr = s.ackTmr ∧
    s.roundEnd.stallTmr = s.stallTmr ∧ s.roundEnd.streamClose = s.streamClose ∧ s.roundEnd.busRdata = s.busRdata ∧
    s.roundEnd.rxStream = s.rxStream ∧ s.roundEnd.txStream = s.txStream ∧ s.roundEnd.agenda = s.agenda ∧
    s.roundEnd.draws = s.draws ∧ s.roundEnd.epoch = s.epoch := by
  obtain ⟨_, _, _, _, _, _, _, _, e⟩ := s.roundEnd_only
  simp [e]

/-- What a byte taken leaves alone (R171, R173, R175). -/
@[simp] theorem State.takeByte_fields (s : State) (b : Byte) :
    (s.takeByte b).cfg = s.cfg ∧ (s.takeByte b).ls = s.ls ∧ (s.takeByte b).snd = s.snd ∧
    (s.takeByte b).dsp = s.dsp ∧ (s.takeByte b).ser = s.ser ∧ (s.takeByte b).txDone = s.txDone ∧
    (s.takeByte b).txOk = s.txOk ∧ (s.takeByte b).fatal = s.fatal ∧ (s.takeByte b).fatalCause = s.fatalCause ∧
    (s.takeByte b).cmdErr = s.cmdErr ∧ (s.takeByte b).busErr = s.busErr ∧ (s.takeByte b).txLen = s.txLen ∧
    (s.takeByte b).irqEn = s.irqEn ∧ (s.takeByte b).lastErr = s.lastErr ∧ (s.takeByte b).cnt = s.cnt ∧
    (s.takeByte b).mem = s.mem ∧ (s.takeByte b).sndImg = s.sndImg ∧ (s.takeByte b).sndLen = s.sndLen ∧
    (s.takeByte b).sndId = s.sndId ∧ (s.takeByte b).sndFinal = s.sndFinal ∧
    (s.takeByte b).attempts = s.attempts ∧ (s.takeByte b).rxMiss = s.rxMiss ∧
    (s.takeByte b).txOwner = s.txOwner ∧ (s.takeByte b).txPos = s.txPos ∧ (s.takeByte b).ackImg = s.ackImg ∧
    (s.takeByte b).ackReq = s.ackReq ∧ (s.takeByte b).sndReq = s.sndReq ∧ (s.takeByte b).ackTmr = s.ackTmr ∧
    (s.takeByte b).stallTmr = s.stallTmr ∧ (s.takeByte b).streamClose = s.streamClose ∧
    (s.takeByte b).busRdata = s.busRdata ∧ (s.takeByte b).rxStream = s.rxStream ∧
    (s.takeByte b).txStream = s.txStream ∧ (s.takeByte b).agenda = s.agenda ∧ (s.takeByte b).draws = s.draws ∧
    (s.takeByte b).epoch = s.epoch := by
  obtain ⟨_, _, _, _, _, _, _, _, _, e⟩ := s.takeByte_only b
  simp [e]

/-- What ATTEMPT_FAIL leaves alone (R204). -/
@[simp] theorem State.attemptFail_fields (s : State) :
    s.attemptFail.cfg = s.cfg ∧ s.attemptFail.ls = s.ls ∧ s.attemptFail.dsp = s.dsp ∧ s.attemptFail.des = s.des ∧
    s.attemptFail.ser = s.ser ∧ s.attemptFail.txDone = s.txDone ∧ s.attemptFail.txOk = s.txOk ∧
    s.attemptFail.fatal = s.fatal ∧ s.attemptFail.fatalCause = s.fatalCause ∧ s.attemptFail.cmdErr = s.cmdErr ∧
    s.attemptFail.busErr = s.busErr ∧ s.attemptFail.txLen = s.txLen ∧ s.attemptFail.irqEn = s.irqEn ∧
    s.attemptFail.lastErr = s.lastErr ∧ s.attemptFail.mem = s.mem ∧ s.attemptFail.sndId = s.sndId ∧
    s.attemptFail.sndFinal = s.sndFinal ∧ s.attemptFail.attempts = s.attempts + 1 ∧
    s.attemptFail.rxMiss = s.rxMiss ∧ s.attemptFail.rxr = s.rxr ∧ s.attemptFail.txOwner = s.txOwner ∧
    s.attemptFail.txPos = s.txPos ∧ s.attemptFail.ackImg = s.ackImg ∧ s.attemptFail.ackReq = s.ackReq ∧
    s.attemptFail.sndReq = true ∧ s.attemptFail.ackTmr = s.ackTmr ∧ s.attemptFail.rxTmr = s.rxTmr ∧
    s.attemptFail.stallTmr = s.stallTmr ∧ s.attemptFail.streamClose = s.streamClose ∧
    s.attemptFail.busRdata = s.busRdata ∧ s.attemptFail.rxStream = s.rxStream ∧
    s.attemptFail.txStream = s.txStream ∧ s.attemptFail.agenda = s.agenda ∧ s.attemptFail.draws = s.draws ∧
    s.attemptFail.epoch = s.epoch := by
  rcases s.attemptFail_cases with ⟨_, e⟩ | ⟨_, e⟩ <;> simp [e]

/-- What ACK_TIMEOUT leaves alone (R206). -/
@[simp] theorem State.ackTimeout_fields (s : State) :
    s.ackTimeout.cfg = s.cfg ∧ s.ackTimeout.ls = s.ls ∧ s.ackTimeout.dsp = s.dsp ∧ s.ackTimeout.des = s.des ∧
    s.ackTimeout.ser = s.ser ∧ s.ackTimeout.txDone = s.txDone ∧ s.ackTimeout.txOk = s.txOk ∧
    s.ackTimeout.fatal = s.fatal ∧ s.ackTimeout.fatalCause = s.fatalCause ∧ s.ackTimeout.cmdErr = s.cmdErr ∧
    s.ackTimeout.busErr = s.busErr ∧ s.ackTimeout.txLen = s.txLen ∧ s.ackTimeout.irqEn = s.irqEn ∧
    s.ackTimeout.lastErr = s.lastErr ∧ s.ackTimeout.mem = s.mem ∧ s.ackTimeout.sndId = s.sndId ∧
    s.ackTimeout.sndFinal = s.sndFinal ∧ s.ackTimeout.attempts = s.attempts ∧ s.ackTimeout.rxMiss = s.rxMiss ∧
    s.ackTimeout.rxr = s.rxr ∧ s.ackTimeout.txOwner = s.txOwner ∧ s.ackTimeout.txPos = s.txPos ∧
    s.ackTimeout.ackImg = s.ackImg ∧ s.ackTimeout.ackReq = s.ackReq ∧ s.ackTimeout.sndReq = true ∧
    s.ackTimeout.ackTmr = s.ackTmr ∧ s.ackTimeout.rxTmr = s.rxTmr ∧ s.ackTimeout.stallTmr = s.stallTmr ∧
    s.ackTimeout.streamClose = s.streamClose ∧ s.ackTimeout.busRdata = s.busRdata ∧
    s.ackTimeout.rxStream = s.rxStream ∧ s.ackTimeout.txStream = s.txStream ∧ s.ackTimeout.agenda = s.agenda ∧
    s.ackTimeout.draws = s.draws ∧ s.ackTimeout.epoch = s.epoch := by
  rcases s.ackTimeout_cases with ⟨_, e⟩ | ⟨_, e⟩ <;> simp [e]

/-! The compound transitions in terms of the operations whose fields are known. -/

@[simp] theorem State.rxErr_eq (s : State) : s.rxErr = s.rejectRound .stream := rfl

@[simp] theorem State.missTimeout_eq (s : State) : s.missTimeout =
    State.roundEnd { s with
      rxMiss := s.rxMiss + 1, cnt := { s.cnt with rxTimeout := bump s.cnt.rxTimeout }, lastErr := 7#3
      rxr := .empty } := rfl

@[simp] theorem State.missReject_eq (s : State) (r : Reject) : s.missReject r =
    State.roundEnd { s with
      rxMiss := s.rxMiss + 1, cnt := { s.cnt with rxInvalid := bump s.cnt.rxInvalid }, lastErr := r.code
      rxr := .empty } := rfl

@[simp] theorem State.duplicate_eq (s : State) (id : Half) : s.duplicate id =
    State.queueAck { s with cnt := { s.cnt with dup := bump s.cnt.dup } } id := rfl

@[simp] theorem State.newData_eq (s : State) (id : Half) (d : List Byte) : s.newData id d =
    ((s.record id).deliver d).queueAck id := rfl

@[simp] theorem State.newEnd_eq (s : State) (id : Half) : s.newEnd id =
    (s.record id).latchPeerEnd.queueAck id := rfl

/-- A unit is in progress exactly when the sender sends, waits or gives up (R41). -/
theorem SndState.busy_iff (x : SndState) :
    x.busy = true ↔ x = .send ∨ x = .wait ∨ x = .reset := by
  cases x <;> simp [SndState.busy]

end Sys2Proof.Machine

/-! PROOFS. The fatal state, the Link State and the status bits over one step (R21, R50, R302). -/

namespace Sys2Proof.Safety

open Sys2Proof.Machine

/-! ### The fatal state -/

/-- In the fatal state every transition but `reset` writes host registers, buffer bytes and the waiting bytes only. -/
theorem Inv.fires_fatal {e : Event} {s t : State} (h : Inv s) (hf : s.fatal = true) (he : e ≠ .reset)
    (hfires : Fires e s t) : ∃ txDone cmdErr busErr txLen irqEn mem busRdata rxStream,
    t = { s with
      txDone := txDone, cmdErr := cmdErr, busErr := busErr, txLen := txLen, irqEn := irqEn, mem := mem
      busRdata := busRdata, rxStream := rxStream } := by
  have hsnd := h.fatal.snd_halt.mpr hf
  have hdsp := h.fatal.dsp_halt.mpr hf
  obtain ⟨hser, -, -, -, hat, hrt, hst⟩ := h.fatal.quiet hf
  cases hfires with
  | spent | arrive | read | readRefused | writeIgnored | writeRefused | writeStatus | writeTxLen | writeIrqEn
  | writeTxBuf | commandRefused => exact ⟨_, _, _, _, _, _, _, _, rfl⟩
  | tick =>
    refine ⟨s.txDone, s.cmdErr, s.busErr, s.txLen, s.irqEn, s.mem, s.busRdata, s.rxStream, ?_⟩
    simp [State.countTimers, hat, hrt, hst, countDown]
  | reset => exact absurd rfl he
  | rxByte hd | rxErr hd | rxTimeout hd | missTimeout hd | missReject hd | duplicate hd | newData hd | heldOff hd
  | overwritten hd | newEnd hd | ackMatched hd | ackStale hd | resetFrame hd => simp [hdsp] at hd
  | byteTaken hb | attemptDone hb | resetSent hb | ackSent hb => simp [hser] at hb
  | attemptFailed _ hb | resetFailed _ hb | ackFailed _ hb => simp [hser] at hb
  | ackTimeout hs | acked hs => simp [hsnd] at hs
  | grant _ _ hr | dack hr | startRx _ hr => simp [hf] at hr
  | send _ _ hr => simp [State.sendRefused, hf] at hr

/-- Settles O51: such a transition leaves the halted block's other registers as they are. -/
theorem fatalStateIsFinal : Obligations.FatalStateIsFinal := by
  intro s t e h hf he hstep
  obtain ⟨_, _, _, _, _, _, _, _, rfl⟩ := h.fires_fatal hf he (fires_of_step hstep)
  obtain ⟨hser, hack, hreq, hrxr, hat, hrt, hst⟩ := h.fatal.quiet hf
  have hclose : s.streamClose = true := h.fatal.closed.trans hf
  simp [hf, hclose, h.fatal.snd_halt.mpr hf, h.fatal.dsp_halt.mpr hf, hser, h.ser.owner_none.mpr hser, hack, hreq,
    hrxr, hat, hrt, hst]

/-! ### The Link State -/

/-- `RXBUF` and everything above the `TXBUF` window hold the same bytes. -/
def SameRxBuf (s t : State) : Prop := ∀ a, 0x8000 ≤ a → t.byteOf a = s.byteOf a

/-- The frame is a new unit: its id is not the recorded one (R234). -/
def NewUnit (s : State) (f : Frame) : Prop := ¬(s.ls.lrValid = true ∧ f.id = s.ls.lrId.setWidth 16)

/-- A transition that leaves memory and the reset count alone. -/
theorem SameRxBuf.of_mem {s t : State} (hm : t.mem = s.mem) (he : t.epoch = s.epoch) : SameRxBuf s t :=
  fun a _ => State.byteOf_congr hm he a

/-- A byte of `TXBUF` written. -/
theorem SameRxBuf.of_txBuf {s : State} {i : Nat} {b : Byte} (hi : i < 4096) :
    SameRxBuf s { s with mem := Memory.write s.mem (txBufAddr i) b } := fun a ha => by
  rw [State.byteOf_write s _ _ _ _ rfl, if_neg]
  rintro rfl
  simp only [txBufAddr] at ha
  omega

/-- The writers of the Link State (R20, R21): what a transition but `reset` can do to it. -/
theorem fires_linkState {e : Event} {s t : State} (h : Fires e s t) (he : e ≠ .reset) :
    (t.ls = s.ls ∧ SameRxBuf s t) ∨
    (e = .acked ∧ s.snd = .wait ∧ s.ls.awaitAck = false ∧ SameRxBuf s t ∧
      t.ls = { s.ls with nextSendId := 1 - s.ls.nextSendId, localEnd := s.ls.localEnd || s.sndFinal }) ∨
    (e = .txTake ∧ s.txOwner = .snd ∧ s.snd = .send ∧ s.txPos + 1 = s.sndLen ∧ SameRxBuf s t ∧
      t.ls = { s.ls with awaitAck := true, outId := s.sndId }) ∨
    (e = .busWrite 0x0000 0x00000002 ∧ s.fatal = false ∧ SameRxBuf s t ∧ t.ls = { s.ls with newData := false }) ∨
    (e = .dispatch ∧ ∃ f, s.rxr = .frame f ∧
      ((f.flags = 0x80 ∧ f.id = s.ls.outId.setWidth 16 ∧ SameRxBuf s t ∧ t.ls = { s.ls with awaitAck := false }) ∨
       (f.flags = 0x40 ∧ NewUnit s f ∧ SameRxBuf s t ∧
        t.ls = { s.ls with lrValid := true, lrId := idBit f.id, peerEnd := true }) ∨
       (f.flags = 0x00 ∧ NewUnit s f ∧ (s.ls.newData = false ∨ s.cfg.overrun = .overwrite) ∧
        t.ls = { s.ls with
          lrValid := true, lrId := idBit f.id, rxLen := BitVec.ofNat 13 f.payload.length, newData := true }))) := by
  have hnew : ∀ f : Frame, s.isDuplicate f.id = false → NewUnit s f := fun f hf =>
    mt (s.isDuplicate_iff f.id).mpr (Bool.eq_false_iff.mp hf)
  cases h with
  | spent | arrive | rxByte | rxErr | rxTimeout | byteTaken | resetSent | ackSent | attemptFailed | resetFailed
  | ackFailed | ackTimeout | grant | tick | read | readRefused | writeIgnored | writeRefused | writeStatus | writeTxLen
  | writeIrqEn | commandRefused | send | startRx | missTimeout | missReject | duplicate | heldOff | ackStale
  | resetFrame =>
    exact .inl ⟨by simp, .of_mem (by simp) (by simp)⟩
  | reset => exact absurd rfl he
  | writeTxBuf _ _ _ _ hi => exact .inl ⟨rfl, .of_txBuf hi⟩
  | acked hs ha => exact .inr (.inl ⟨rfl, hs, ha, .of_mem rfl rfl, rfl⟩)
  | attemptDone _ ho hs hp => exact .inr (.inr (.inl ⟨rfl, ho, hs, hp, .of_mem rfl rfl, rfl⟩))
  | dack hf => exact .inr (.inr (.inr (.inl ⟨rfl, hf, .of_mem rfl rfl, rfl⟩)))
  | ackMatched _ hr hf _ hid =>
    exact .inr (.inr (.inr (.inr ⟨rfl, _, hr, .inl ⟨hf, hid, .of_mem (by simp) (by simp), by simp⟩⟩)))
  | newEnd _ hr hf hn =>
    exact .inr (.inr (.inr (.inr ⟨rfl, _, hr, .inr (.inl ⟨hf, hnew _ hn, .of_mem rfl rfl, rfl⟩)⟩)))
  | newData _ hr hf hn hd =>
    exact .inr (.inr (.inr (.inr ⟨rfl, _, hr, .inr (.inr ⟨hf, hnew _ hn, .inl hd, rfl⟩)⟩)))
  | overwritten _ hr hf hn _ ho =>
    exact .inr (.inr (.inr (.inr ⟨rfl, _, hr, .inr (.inr ⟨hf, hnew _ hn, .inr ho, rfl⟩)⟩)))

/-- `RXBUF` cannot differ where it is the same. -/
theorem SameRxBuf.not_exists {s t : State} (h : SameRxBuf s t) : ¬∃ a, 0x8000 ≤ a ∧ t.byteOf a ≠ s.byteOf a :=
  fun ⟨a, ha, hne⟩ => hne (h a ha)

/-- Settles O52: each field of the Link State, writer by writer. -/
theorem linkStateWriters : Obligations.LinkStateWriters := by
  intro s t e he hstep
  rcases fires_linkState (fires_of_step hstep) he with ⟨hls, hm⟩ | ⟨rfl, hs, ha, hm, hls⟩ | ⟨rfl, ho, hs, hp, hm, hls⟩ |
    ⟨rfl, hf, hm, hls⟩ | ⟨rfl, f, hr, ⟨hf, hid, hm, hls⟩ | ⟨hf, hn, hm, hls⟩ | ⟨hf, hn, hd, hls⟩⟩
  · simp [hls, hm.not_exists]
  · simpa [hls, hm.not_exists, hs, ha] using fun hfinal _ => ⟨hfinal, .inr hfinal⟩
  · simp [hls, hm.not_exists, ho, hs, hp]
  · simp [hls, hm.not_exists, hf]
  · simp [hls, hm.not_exists, hr, hf, hid]
  · simpa [hls, hm.not_exists, hr, hf] using ⟨fun _ => not_and.mp hn, fun _ => not_and.mp hn⟩
  · simpa [hls, hr, hf] using ⟨fun _ => not_and.mp hn, fun _ => ⟨not_and.mp hn, hd⟩, fun _ => ⟨not_and.mp hn, hd⟩⟩

/-! ### The status bits -/

/-- The stored bits of `STATUS` (R41, R50). -/
structure SameStatus (s t : State) : Prop where
  fatal : t.fatal = s.fatal
  cause : t.fatalCause = s.fatalCause
  tx_done : t.txDone = s.txDone
  tx_ok : t.txOk = s.txOk
  cmd_err : t.cmdErr = s.cmdErr
  bus_err : t.busErr = s.busErr

/-- R303: what enters the fatal state, with the cause it records. -/
def EntersFatal (e : Event) (s : State) (c : FatalCause) : Prop :=
  (e = .dispatch ∧ (∃ f, s.rxr = .frame f ∧ f.flags = 0x20) ∧ c = .peerReset) ∨
  ((e = .txTake ∨ e = .txErr ∨ e = .txStall) ∧ s.snd = .reset ∧ s.txOwner = .snd ∧ c = .exhausted)

/-- R261: an access of `a` that the block refuses. -/
def AccessRefused (e : Event) (s : State) (a : HostAddr) : Prop :=
  (((∃ v, e = .busWrite a v) ∨ e = .busRead a) ∧ NoPlace s.cfg a) ∨
  ((∃ v, e = .busWrite a v) ∧ s.snd.busy = true ∧ TxPlace s.cfg a)

/-- A refused access is one of an address without a place, or a write that a unit in progress forbids. -/
theorem AccessRefused.access {e : Event} {s : State} {a : HostAddr} (h : AccessRefused e s a) :
    ((∃ v : Word, e = .busWrite a v) ∨ e = .busRead a) ∧
    (a.toNat % 4 ≠ 0 ∨ (0x0044 ≤ a.toNat ∧ a.toNat < 0x4000) ∨
      (0x4000 + 4 * s.cfg.maxPayload ≤ a.toNat ∧ a.toNat < 0x8000) ∨
      (0x8000 + 4 * s.cfg.maxPayload ≤ a.toNat ∧ a.toNat < 0xC000) ∨ 0xC000 ≤ a.toNat ∨
      ((∃ v : Word, e = .busWrite a v) ∧ s.snd.busy = true ∧
        (a = 0x000C ∨ (0x4000 ≤ a.toNat ∧ a.toNat < 0x4000 + 4 * s.cfg.maxPayload)))) := by
  rcases h with ⟨he, h | h | h | h | h⟩ | ⟨he, hb, hp⟩
  · exact ⟨he, .inl h⟩
  · exact ⟨he, .inr (.inl h)⟩
  · exact ⟨he, .inr (.inr (.inl h))⟩
  · exact ⟨he, .inr (.inr (.inr (.inl h)))⟩
  · exact ⟨he, .inr (.inr (.inr (.inr (.inl h))))⟩
  · exact ⟨.inl he, .inr (.inr (.inr (.inr (.inr ⟨he, hb, hp⟩))))⟩

/-- The writers of the status bits (R50, R303, R304): what a transition but `reset` can do to them. -/
theorem fires_status {e : Event} {s t : State} (h : Fires e s t) (he : e ≠ .reset) :
    SameStatus s t ∨
    (∃ c u, EntersFatal e s c ∧ t = State.raiseFatal u c ∧ SameStatus s u ∧ u.snd = s.snd) ∨
    (e = .acked ∧ s.snd = .wait ∧ s.ls.awaitAck = false ∧ t = s.acked) ∨
    (∃ v, e = .busWrite 0x0004 v ∧ t = s.clearStatus v) ∨
    (∃ v, e = .busWrite 0x0000 v ∧ s.RefusesCommand v ∧ t = s.commandError) ∨
    (∃ a w, AccessRefused e s a ∧ t = { s.busRefuse with busRdata := w }) := by
  cases h with
  | spent | arrive | rxByte | rxErr | rxTimeout | byteTaken | attemptDone | ackSent | attemptFailed
  | ackFailed | ackTimeout | grant | tick | read | writeIgnored | writeTxLen
  | writeIrqEn | writeTxBuf | send | dack | startRx | missTimeout | missReject | duplicate | newData | heldOff
  | overwritten | newEnd | ackMatched | ackStale =>
    left
    constructor <;> simp
  | reset => exact absurd rfl he
  | resetSent _ ho hs =>
    exact .inr (.inl ⟨_, _, .inr ⟨.inl rfl, hs, ho, rfl⟩, rfl, ⟨rfl, rfl, rfl, rfl, rfl, rfl⟩, rfl⟩)
  | resetFailed hx _ ho hs =>
    exact .inr (.inl ⟨_, _, .inr ⟨.inr (hx.imp_right And.left), hs, ho, rfl⟩, rfl, ⟨rfl, rfl, rfl, rfl, rfl, rfl⟩, rfl⟩)
  | resetFrame _ hr hf =>
    exact .inr (.inl ⟨_, _, .inl ⟨rfl, ⟨_, hr, hf⟩, rfl⟩, rfl, ⟨rfl, rfl, rfl, rfl, rfl, rfl⟩, rfl⟩)
  | acked hs ha => exact .inr (.inr (.inl ⟨rfl, hs, ha, rfl⟩))
  | writeStatus v => exact .inr (.inr (.inr (.inl ⟨v, rfl, rfl⟩)))
  | commandRefused hv => exact .inr (.inr (.inr (.inr (.inl ⟨_, rfl, hv, rfl⟩))))
  | readRefused hn => exact .inr (.inr (.inr (.inr (.inr ⟨_, _, .inl ⟨.inr rfl, hn⟩, rfl⟩))))
  | @writeRefused _ a v hn =>
    refine .inr (.inr (.inr (.inr (.inr ⟨a, s.busRdata, ?_, rfl⟩))))
    rcases hn with hn | ⟨hb, hp⟩
    · exact .inl ⟨.inl ⟨_, rfl⟩, hn⟩
    · exact .inr ⟨⟨_, rfl⟩, hb, hp⟩

/-- Settles O54: each status bit, writer by writer. -/
theorem stickyStatusBits : Obligations.StickyStatusBits := by
  intro s t e he hstep
  rcases fires_status (fires_of_step hstep) he with hsame | ⟨c, u, hc, rfl, hsame, hsnd⟩ | ⟨rfl, hs, ha, rfl⟩ |
    ⟨v, rfl, rfl⟩ | ⟨v, rfl, hv, rfl⟩ | ⟨a, w, ha, rfl⟩
  · obtain ⟨h1, h2, h3, h4, h5, h6⟩ := hsame
    simp +contextual [h1, h3, h4, h5, h6]
  · obtain ⟨h1, h2, h3, h4, h5, h6⟩ := hsame
    refine ⟨fun _ => rfl, fun _ _ => hc, fun hx => .inr (.inl ?_), ?_, ?_, ?_, ?_⟩
    · have hbusy : s.snd.busy = true := by
        by_contra hb
        simp [h3, h4, hsnd, hb] at hx
      exact ⟨s.snd.busy_iff.mp hbusy, rfl, rfl, by simp [hsnd, hbusy], by simp [hsnd, hbusy]⟩
    all_goals simp +contextual [h5, h6]
  · simp +contextual [hs, ha]
  · simp +contextual
  · refine ⟨?_, ?_, ?_, ?_, ?_, fun _ _ => ⟨v, rfl, hv⟩, ?_⟩
    all_goals simp +contextual
  · refine ⟨?_, ?_, ?_, ?_, ?_, ?_, fun _ _ => ⟨a, ha.access⟩⟩
    all_goals simp +contextual

end Sys2Proof.Safety

/-! PROOFS. Register reads, ignored writes, the clock and the reset values (R39 to R48, R65, R341). -/

namespace Sys2Proof.Machine

open Sys2Proof.Safety

/-! ### Reads (R268) -/

/-- A read of a place: the data port takes the value and nothing else changes. -/
theorem step_busRead {s : State} {a : HostAddr} {w : Word} (h : s.readTarget (target s.cfg a) = some w) :
    step (chosen (.busRead a) s) = .next { s with busRdata := w } := by
  rw [step_enabled rfl]
  simp [fire, State.busRead, h]

/-- The word index of an aligned address below 0x0044 selects its register (R40 to R48). -/
theorem target_reg (p : Params) {a : HostAddr} (h4 : a.toNat % 4 = 0) (h : a.toNat ≤ 0x0040) :
    target p a = regAt (a.toNat / 4) := by
  simp [target, h4, h]

/-- Eleven fields of R41's widths, concatenated, stand at R41's places. -/
theorem statusLayout (z : BitVec 21) (b10 b9 : Bool) (c : BitVec 2) (b6 b5 b4 b3 b2 b1 b0 : Bool) :
    ∀ w, w = z ++ BitVec.ofBool b10 ++ BitVec.ofBool b9 ++ c ++ BitVec.ofBool b6 ++ BitVec.ofBool b5 ++
      BitVec.ofBool b4 ++ BitVec.ofBool b3 ++ BitVec.ofBool b2 ++ BitVec.ofBool b1 ++ BitVec.ofBool b0 →
    (w.getLsbD 0 = b0 ∧ w.getLsbD 1 = b1 ∧ w.getLsbD 2 = b2 ∧ w.getLsbD 3 = b3 ∧ w.getLsbD 4 = b4 ∧
      w.getLsbD 5 = b5 ∧ w.getLsbD 6 = b6 ∧ w.getLsbD 9 = b9 ∧ w.getLsbD 10 = b10) ∧
    w.extractLsb' 7 2 = c ∧ w.extractLsb' 11 21 = z := by
  rintro _ rfl
  constructor
  · simp only [BitVec.getLsbD_append]
    simp
  · simp (disch := decide) only [BitVec.extractLsb'_append_eq_of_le, BitVec.extractLsb'_append_eq_of_add_le]
    simp

/-- Fourteen fields of R42's widths, concatenated, stand at R42's places. -/
theorem linkLayout (z : BitVec 5) (dsp snd : BitVec 3) (miss : BitVec 5) (y : BitVec 3) (att : BitVec 5)
    (b7 b6 b5 : Bool) (b4 : BitVec 1) (b3 : Bool) (b2 : BitVec 1) (b1 : Bool) (b0 : BitVec 1) :
    ∀ w, w = z ++ dsp ++ snd ++ miss ++ y ++ att ++ BitVec.ofBool b7 ++ BitVec.ofBool b6 ++ BitVec.ofBool b5 ++ b4 ++
      BitVec.ofBool b3 ++ b2 ++ BitVec.ofBool b1 ++ b0 →
    (w.getLsbD 1 = b1 ∧ w.getLsbD 3 = b3 ∧ w.getLsbD 5 = b5 ∧ w.getLsbD 6 = b6 ∧ w.getLsbD 7 = b7) ∧
    w.extractLsb' 0 1 = b0 ∧ w.extractLsb' 2 1 = b2 ∧ w.extractLsb' 4 1 = b4 ∧ w.extractLsb' 8 5 = att ∧
    w.extractLsb' 13 3 = y ∧ w.extractLsb' 16 5 = miss ∧ w.extractLsb' 21 3 = snd ∧ w.extractLsb' 24 3 = dsp ∧
    w.extractLsb' 27 5 = z := by
  rintro _ rfl
  constructor
  · simp only [BitVec.getLsbD_append]
    simp
  · simp (disch := decide) only [BitVec.extractLsb'_append_eq_of_le, BitVec.extractLsb'_append_eq_of_add_le]
    simp

/-- The codes of R303 as numbers. -/
theorem FatalCause.code_toNat (c : FatalCause) :
    c.code.toNat = (match c with | .none => 0 | .peerReset => 1 | .exhausted => 2) := by
  cases c <;> rfl

/-- The codes of R31 as numbers. -/
theorem SndState.code_toNat (x : SndState) :
    x.code.toNat = (match x with | .idle => 0 | .send => 1 | .wait => 2 | .reset => 3 | .halt => 4) := by
  cases x <;> rfl

/-- The codes of R32 as numbers. -/
theorem DspState.code_toNat (x : DspState) :
    x.code.toNat =
      (match x with | .off => 0 | .recv => 1 | .ack => 2 | .done => 3 | .expired => 4 | .halt => 5) := by
  cases x <;> rfl

/-- `TX_BUSY` spelt out (R41). -/
theorem SndState.busy_eq (x : SndState) : x.busy = (x == .send || x == .wait || x == .reset) := by
  cases x <;> rfl

/-- Settles O10: the word read is `statusWord`, whose fields stand at R41's places. -/
theorem statusRead : Obligations.StatusRead := by
  intro s
  refine ⟨s.statusWord, step_busRead rfl, ?_⟩
  obtain ⟨⟨h0, h1, h2, h3, h4, h5, h6, h9, h10⟩, h7, h11⟩ := statusLayout _ _ _ _ _ _ _ _ _ _ _ s.statusWord rfl
  refine ⟨h0.trans s.snd.busy_eq, h1, h2, h3, h4, h5, h6, ?_, h9, h10, h11⟩
  rw [h7]
  exact s.fatalCause.code_toNat

/-- Settles O11: the word read is `linkWord`, whose fields stand at R42's places. -/
theorem linkRead : Obligations.LinkRead := by
  intro s
  refine ⟨s.linkWord, step_busRead rfl, ?_⟩
  obtain ⟨⟨h1, h3, h5, h6, h7⟩, h0, h2, h4, h8, h13, h16, h21, h24, h27⟩ :=
    linkLayout _ _ _ _ _ _ _ _ _ _ _ _ _ _ s.linkWord rfl
  refine ⟨h0, h1, h2, h3, h4, h5, h6, h7, h8, h13, h16, ?_, ?_, h27⟩
  · rw [h21]
    exact s.snd.code_toNat
  · rw [h24]
    exact s.dsp.code_toNat

/-- `CFG` for admitted parameters as one number (R47). -/
theorem cfgWord_eq {p : Params} (hp : p.Wf) :
    cfgWord p = BitVec.ofNat 32 (p.maxPayload + p.maxAttempts * 2 ^ 16) := by
  obtain ⟨⟨-, hpay⟩, ⟨-, hatt⟩, -⟩ := hp
  apply BitVec.eq_of_toNat_eq
  simp only [cfgWord, BitVec.toNat_append, BitVec.toNat_ofNat]
  rw [← Nat.shiftLeft_add_eq_or_of_lt (by omega), ← Nat.shiftLeft_add_eq_or_of_lt (by omega),
    ← Nat.shiftLeft_add_eq_or_of_lt (by omega)]
  simp only [Nat.shiftLeft_eq]
  omega

/-- Settles O12: each address names its register, and the read returns it. -/
theorem registerReads : Obligations.RegisterReads := by
  intro s
  refine ⟨step_busRead rfl, step_busRead rfl, step_busRead rfl, step_busRead rfl, step_busRead rfl, fun hp => ?_,
    step_busRead rfl, step_busRead rfl, step_busRead rfl, step_busRead rfl, step_busRead rfl, step_busRead rfl,
    step_busRead rfl, step_busRead rfl, step_busRead rfl⟩
  rw [← cfgWord_eq hp]
  exact step_busRead rfl

/-! ### Ignored writes (R83) -/

/-- The places that ignore a write. -/
def Target.readOnly : Target → Bool
  | .link | .rxLen | .lastErr | .cfg | .counter _ | .rxBuf _ => true
  | .misaligned | .unmapped | .cmd | .status | .txLen | .irqEn | .txBuf _ => false

/-- A write of a read-only place changes nothing. -/
theorem step_busWrite_readOnly {s : State} {a : HostAddr} (v : Word) (h : (target s.cfg a).readOnly = true) :
    step (chosen (.busWrite a v) s) = .next s := by
  rw [step_enabled rfl]
  cases ht : target s.cfg a <;> simp_all [Target.readOnly, fire, State.busWrite]

/-- The nine counters' addresses (R48). -/
theorem target_counter (p : Params) {a : HostAddr} (h1 : 0x0020 ≤ a.toNat) (h2 : a.toNat ≤ 0x0040)
    (h4 : a.toNat % 4 = 0) : (target p a).readOnly = true := by
  rw [target_reg p h4 h2]
  have hk : 8 ≤ a.toNat / 4 ∧ a.toNat / 4 ≤ 16 := by omega
  obtain ⟨hlo, hhi⟩ := hk
  interval_cases a.toNat / 4 <;> rfl

/-- Settles O17: each of the addresses names a read-only place. -/
theorem readOnlyWritesIgnored : Obligations.ReadOnlyWritesIgnored := by
  intro s v hp
  obtain ⟨⟨-, hpay⟩, -⟩ := hp
  refine ⟨fun a ha => step_busWrite_readOnly v ?_, fun i hi => step_busWrite_readOnly v ?_⟩
  · rcases ha with rfl | rfl | rfl | rfl | ⟨h1, h2, h4⟩
    · rfl
    · rfl
    · rfl
    · rfl
    · exact target_counter s.cfg h1 h2 h4
  · rw [target_rxBuf s.cfg i hi hpay]
    rfl

/-! ### The clock (R65) -/

/-- A timer after a cycle and `n` more. -/
theorem map_sub_countDown (x : Option Nat) (n : Nat) : (countDown x).map (· - n) = x.map (· - (n + 1)) := by
  cases x with
  | none => rfl
  | some k => simp [countDown]; omega

/-- Settles O44: by induction on the number of cycles. -/
theorem timersCountCycles : Obligations.TimersCountCycles := by
  intro s n
  induction n generalizing s with
  | zero => simp [choosing]
  | succ n ih =>
    have htick : step (chosen .tick (choosing (List.replicate n .tick) s)) =
        .next (choosing (List.replicate n .tick) s.countTimers) := step_enabled rfl
    rw [List.replicate_succ, runs_choosing n .tick _ s _ htick, ih]
    simp only [← map_sub_countDown]
    rfl

/-! ### Reset (R341) -/

/-- `STATUS` reads 0 after reset. -/
theorem State.resetWith_statusWord (p : Params) : (State.resetWith p).statusWord = 0 := by
  change (0#21 ++ 0#1 ++ 0#1 ++ 0#2 ++ 0#1 ++ 0#1 ++ 0#1 ++ 0#1 ++ 0#1 ++ 0#1 ++ 0#1 : BitVec 32) = 0
  decide

/-- `irq` is low after reset. -/
theorem State.resetWith_irq (p : Params) : (State.resetWith p).irq = false := by
  simp [State.irq, State.resetWith]

/-- Settles O45: the words the block computes, the counters and the buffers one by one; every other item is a field. -/
theorem resetValues : Obligations.ResetValues := by
  refine ⟨?_, rfl⟩
  rintro p s rfl
  have hcnt : ∀ c, (State.resetWith p).cnt.get c = 0 := fun c => by cases c <;> rfl
  have hbyte : ∀ a, (State.resetWith p).byteOf a = Config.unspecifiedByte 0 a := fun a => rfl
  rw [State.resetWith_statusWord, State.resetWith_irq]
  simp only [hcnt, hbyte]
  simp [State.resetWith, LinkState.reset]

end Sys2Proof.Machine

/-! PROOFS. Steps by what their transition comes to, and the guards of R76 read as conditions. -/

namespace Sys2Proof.Machine

open Sys2Proof.Safety

/-! ### The two kinds of a fired transition -/

/-- An enabled transition that carries an instruction runs it. -/
theorem step_of_run {e : Event} {s : State} {i : Instr} (h : enabled e s = true) (hf : fire e s = .run i) :
    step (chosen e s) = exec i s := by
  rw [step_enabled h, hf]

/-- An enabled transition that carries no instruction has its outcome at once. -/
theorem step_of_done {e : Event} {s : State} {r : Result} (h : enabled e s = true) (hf : fire e s = .done r) :
    step (chosen e s) = r := by
  rw [step_enabled h, hf]

/-- A choice whose guard does not hold, with the guard as a condition. -/
theorem step_of_guard {e : Event} {s : State} {guard : Prop} (hiff : enabled e s = true ↔ guard) (h : ¬guard) :
    step (chosen e s) = .next s :=
  step_disabled (Bool.eq_false_iff.mpr (mt hiff.mp h))

/-! ### Guards (R76) -/

/-- A byte is taken from a stream that has one, by a ready deserializer. -/
theorem enabled_rxByte_iff (s : State) :
    enabled .rxByte s = true ↔ (s.dsp = .recv ∧ s.rxr = .empty) ∧ s.rxStream ≠ [] := by
  simp [enabled, State.rxReady_iff]

/-- A stream error reaches a ready deserializer. -/
theorem enabled_rxErr_iff (s : State) : enabled .rxErr s = true ↔ s.dsp = .recv ∧ s.rxr = .empty :=
  s.rxReady_iff

/-- The round timer runs out at a ready deserializer. -/
theorem enabled_rxTimeout_iff (s : State) :
    enabled .rxTimeout s = true ↔ s.dsp = .recv ∧ s.rxr = .empty ∧ s.rxTmr = some 0 := by
  simp [enabled, State.rxReady_iff, and_assoc]

/-- A byte is on offer while a frame is sent (R145). -/
theorem enabled_txTake_iff (s : State) : enabled .txTake s = true ↔ s.ser = .busy := by
  simp [enabled, State.txValid]

/-- A write error hits a frame that is sent. -/
theorem enabled_txErr_iff (s : State) : enabled .txErr s = true ↔ s.ser = .busy := by
  simp [enabled, State.txValid]

/-- The stall timer runs out while a frame is sent. -/
theorem enabled_txStall_iff (s : State) : enabled .txStall s = true ↔ s.ser = .busy ∧ s.stallTmr = some 0 := by
  simp [enabled, State.txValid]

/-- The ACK timer runs out while an ACK is awaited. -/
theorem enabled_ackTimeout_iff (s : State) :
    enabled .ackTimeout s = true ↔ s.snd = .wait ∧ s.ls.awaitAck = true ∧ s.ackTmr = some 0 := by
  simp [enabled, and_assoc]

/-- A waiting sender sees that its ACK came (R205). -/
theorem enabled_acked_iff (s : State) : enabled .acked s = true ↔ s.snd = .wait ∧ s.ls.awaitAck = false := by
  simp [enabled]

/-- The dispatcher consumes a round's result (R230, R231). -/
theorem enabled_dispatch_iff (s : State) : enabled .dispatch s = true ↔ s.dsp = .recv ∧ s.rxr ≠ .empty := by
  simp [enabled]

/-- Settles O43: the two results a round can end with, and each guard of R76 where it does not hold. -/
theorem eventsFireOnlyWhenEnabled : Obligations.EventsFireOnlyWhenEnabled := by
  intro s
  refine ⟨fun hd hr => ⟨fun ht => ?_, ?_⟩, fun h => ⟨?_, ?_⟩, fun h => ?_, fun h => ?_, fun h => ⟨?_, ?_⟩, fun h => ?_,
    fun h => ?_⟩
  · exact step_of_done ((enabled_rxTimeout_iff s).mpr ⟨hd, hr, ht⟩) rfl
  · exact step_of_done ((enabled_rxErr_iff s).mpr ⟨hd, hr⟩) rfl
  · exact step_of_guard (enabled_rxByte_iff s) fun hg => h hg.1
  · exact step_of_guard (enabled_rxErr_iff s) h
  · exact step_of_guard (enabled_rxByte_iff s) fun hg => hg.2 h
  · exact step_of_guard (enabled_rxTimeout_iff s) h
  · exact step_of_guard (enabled_txTake_iff s) h
  · exact step_of_guard (enabled_txErr_iff s) h
  · exact step_of_guard (enabled_txStall_iff s) h
  · exact step_of_guard (enabled_ackTimeout_iff s) h

/-! ### START_RX (R265) -/

/-- A command to start a dispatcher that is off, in a running block. -/
theorem exec_startRx_of_off {s : State} (hf : s.fatal = false) (hd : s.dsp = .off) :
    exec .startRx s = .next (State.roundStart { s with rxMiss := 0, dsp := .recv }) := by
  simp [exec, execStartRx, hf, hd]

/-- A command to start a dispatcher in the fatal state, or one that was started. -/
theorem exec_startRx_refused {s : State} (h : s.fatal = true ∨ s.dsp ≠ .off) :
    exec .startRx s = .next s.commandError := by
  have hrefused : (s.fatal || s.dsp != .off) = true := by simpa using h
  simp only [exec, execStartRx, if_pos hrefused]

/-- Settles O25: START_RX in its two cases, and the guard of `rx_byte` while the dispatcher is off. -/
theorem startRxStarts : Obligations.StartRxStarts := by
  intro s
  refine ⟨exec_startRx_of_off, exec_startRx_refused, fun hd => ?_⟩
  have hready : ¬(s.dsp = .recv ∧ s.rxr = .empty) := fun h => by simp [hd] at h
  exact ⟨Bool.eq_false_iff.mpr (mt s.rxReady_iff.mp hready),
    step_of_guard (enabled_rxByte_iff s) fun hg => hready hg.1⟩

/-! ### The instruction a step runs (R231, R260) -/

/-- A frame that decodes is one the validator passes, and the instruction is the frame's. -/
theorem decodeFrame_ok {p : Params} {img : List Byte} {i : Instr} (h : decodeFrame p img = .ok i) :
    ∃ f, validate img = .ok f ∧ f.toInstr = some i := by
  unfold decodeFrame at h
  iterate 5 (split at h; · cases h)
  split at h
  · cases h
  next f hv =>
  split at h
  · cases h
  next hi => cases h; exact ⟨f, hv, hi⟩

/-- A write of a command word to `CMD` (R260). -/
theorem fire_busWrite_cmd {s : State} {v : Word} {i : Instr} (h : decodeCmd v = .ok i) :
    fire (.busWrite 0x0000#16 v) s = .run i := by
  have ht : target s.cfg 0x0000#16 = .cmd := rfl
  simp only [fire, State.busWrite, ht, h]

/-- The dispatcher's transition with a frame in the slot (R231). -/
theorem fire_dispatch_frame {s : State} {f : Frame} {i : Instr} (hr : s.rxr = .frame f) (hi : f.toInstr = some i) :
    fire .dispatch s = .run i := by
  simp only [fire, State.dispatch, hr, hi]

/-- Settles O47: both transitions that carry an instruction run the decoded one. -/
theorem stepRunsDecodedInstruction : Obligations.StepRunsDecodedInstruction := by
  intro s i
  refine ⟨fun v hv => step_of_run rfl (fire_busWrite_cmd hv), fun p img f hi hv hd hr => ?_⟩
  obtain ⟨g, hg, hgi⟩ := decodeFrame_ok hi
  obtain rfl : g = f := Except.ok.inj (hg.symm.trans hv)
  exact step_of_run ((enabled_dispatch_iff s).mpr ⟨hd, by simp [hr]⟩) (fire_dispatch_frame hr hgi)

end Sys2Proof.Machine

/-! PROOFS. Host accesses of the payload buffers, and the accesses R261 refuses. -/

namespace Sys2Proof.Machine

open Sys2Proof.Safety

/-! ### What a write comes to -/

/-- What a bus write comes to: a command to run, or its effect at once (R260). -/
theorem State.busWrite_cases (s : State) (a : HostAddr) (v : Word) :
    (∃ i, s.busWrite a v = .run i) ∨ ∃ t, s.busWrite a v = .done (.next t) := by
  unfold State.busWrite
  cases target s.cfg a with
  | cmd =>
    cases decodeCmd v with
    | ok i => exact .inl ⟨i, rfl⟩
    | error => exact .inr ⟨s.commandError, rfl⟩
  | misaligned | unmapped | status | link | txLen | rxLen | irqEn | lastErr | cfg | counter | txBuf | rxBuf =>
    exact .inr ⟨_, rfl⟩

/-! ### The buffers (R269, R270) -/

/-- Settles O13: both addresses name their byte's place. -/
theorem bufferReads : Obligations.BufferReads := by
  intro s i hp hi
  obtain ⟨⟨-, hpay⟩, -⟩ := hp
  refine ⟨step_busRead ?_, step_busRead ?_⟩
  · rw [target_rxBuf s.cfg i hi hpay]
    rfl
  · rw [target_txBuf s.cfg i hi hpay]
    rfl

/-- A write of a place of `TXBUF`. -/
theorem step_busWrite_txBuf {s : State} {a : HostAddr} {i : Nat} (v : Word) (h : target s.cfg a = .txBuf i) :
    step (chosen (.busWrite a v) s) = .next (s.writeTxBuf i v) :=
  step_of_done rfl (by simp only [fire, State.busWrite, h])

/-- A `TXBUF` write while no unit is in progress (R269). -/
theorem State.writeTxBuf_of_free {s : State} (i : Nat) (v : Word) (h : s.snd.busy = false) :
    s.writeTxBuf i v = { s with mem := Memory.write s.mem (txBufAddr i) (v.setWidth 8) } := by
  simp [State.writeTxBuf, State.txBusy, h]

/-- A `TXBUF` write while a unit is in progress (R261). -/
theorem State.writeTxBuf_of_busy {s : State} (i : Nat) (v : Word) (h : s.snd.busy = true) :
    s.writeTxBuf i v = s.busRefuse := by
  simp [State.writeTxBuf, State.txBusy, h]

/-- Settles O14: the byte written, and every other one, by the rule for one byte after a write. -/
theorem txBufWrite : Obligations.TxBufWrite := by
  intro s i v hp hi hb
  obtain ⟨⟨-, hpay⟩, -⟩ := hp
  refine ⟨Memory.write s.mem (txBufAddr i) (v.setWidth 8), ?_, ?_, fun a ha => ?_⟩
  · rw [step_busWrite_txBuf v (target_txBuf s.cfg i hi hpay), State.writeTxBuf_of_free i v hb]
  · rw [State.byteOf_write s _ _ _ _ rfl, if_pos rfl, BitVec.setWidth_eq_extractLsb' (by decide)]
  · rw [State.byteOf_write s _ _ _ _ rfl, if_neg ha]

/-! ### Refused accesses (R261) -/

/-- The addresses R80 and R81 leave out name no place. -/
theorem target_of_noPlace {p : Params} {a : HostAddr} (h : NoPlace p a) :
    target p a = .misaligned ∨ target p a = .unmapped := by
  by_cases h4 : a.toNat % 4 = 0
  · right
    simp only [NoPlace, h4, ne_eq, not_true_eq_false, false_or] at h
    have hreg : ¬a.toNat ≤ 0x0040 := by omega
    simp only [target, h4, hreg, ne_eq, not_true_eq_false, if_false]
    split
    · rfl
    split
    · exact if_neg (by omega)
    split
    · exact if_neg (by omega)
    · rfl
  · exact .inl (target_misaligned p a h4)

/-- A write where the map names no place. -/
theorem step_busWrite_noPlace {s : State} {a : HostAddr} (v : Word) (h : NoPlace s.cfg a) :
    step (chosen (.busWrite a v) s) = .next s.busRefuse := by
  refine step_of_done rfl ?_
  rcases target_of_noPlace h with ht | ht <;> simp only [fire, State.busWrite, ht]

/-- A read where the map names no place. -/
theorem step_busRead_noPlace {s : State} {a : HostAddr} (h : NoPlace s.cfg a) :
    step (chosen (.busRead a) s) = .next { s.busRefuse with busRdata := 0 } := by
  refine step_of_done rfl ?_
  rcases target_of_noPlace h with ht | ht <;> simp only [fire, State.busRead, ht, State.readTarget]

/-- A write of `TX_LEN` while a unit is in progress. -/
theorem step_busWrite_txLen_of_busy {s : State} (v : Word) (h : s.snd.busy = true) :
    step (chosen (.busWrite 0x000C#16 v) s) = .next s.busRefuse := by
  have hrefused : s.writeTxLen v = s.busRefuse := by simp [State.writeTxLen, State.txBusy, h]
  rw [← hrefused]
  exact step_of_done rfl rfl

/-- Settles O15: an address without a place, then the two writes that a unit in progress forbids. -/
theorem refusedAccess : Obligations.RefusedAccess := by
  intro s a v hp
  obtain ⟨⟨-, hpay⟩, -⟩ := hp
  refine ⟨fun ha => ⟨step_busWrite_noPlace v ha, step_busRead_noPlace ha⟩, step_busWrite_txLen_of_busy v,
    fun i hi hb => ?_⟩
  rw [step_busWrite_txBuf v (target_txBuf s.cfg i hi hpay), State.writeTxBuf_of_busy i v hb]
  rfl

end Sys2Proof.Machine

/-! PROOFS. No state with the invariant stops; the unit in progress and the incoming stream over one step. -/

namespace Sys2Proof.Safety

open Sys2Proof.Machine

/-! ### No fault (log entry 11) -/

/-- The engine that owns a frame waits for its end: R146 and R147 name what follows. -/
def OwnerWaits (s : State) (o : Owner) : Prop :=
  (o = .snd ∧ (s.snd = .send ∨ s.snd = .reset)) ∨ (o = .dsp ∧ s.dsp = .ack)

/-- A completed frame has its owner's next step (R146). -/
theorem OwnerWaits.completion_goes {s : State} {o : Owner} (h : OwnerWaits s o) : ∃ t, s.completion o = .next t := by
  obtain ⟨rfl, hs | hs⟩ | ⟨rfl, hd⟩ := h
  · exact ⟨s.attemptDone, by simp only [State.completion, hs]⟩
  · exact ⟨s.raiseFatal .exhausted, by simp only [State.completion, hs]⟩
  · exact ⟨s.roundEnd, if_pos hd⟩

/-- An abandoned frame has its owner's next step (R147). -/
theorem OwnerWaits.failure_goes {s : State} {o : Owner} (h : OwnerWaits s o) : ∃ t, s.failure o = .next t := by
  obtain ⟨rfl, hs | hs⟩ | ⟨rfl, hd⟩ := h
  · exact ⟨s.attemptFail, by simp only [State.failure, hs]⟩
  · exact ⟨s.raiseFatal .exhausted, by simp only [State.failure, hs]⟩
  · exact ⟨s.roundEnd, if_pos hd⟩

/-- While a frame is on the wire its owner waits for its end. -/
theorem SerInv.ownerWaits {s : State} (h : SerInv s) (hb : s.ser = .busy) : OwnerWaits s s.txOwner := by
  cases ho : s.txOwner with
  | none => simp [h.owner_none.mp ho] at hb
  | snd => exact .inl ⟨rfl, (h.owner_snd ho).1⟩
  | dsp => exact .inr ⟨rfl, (h.owner_dsp ho).1⟩

/-- TX_TAKE answers a next state (R146). -/
theorem SerInv.txTake_goes {s : State} (h : SerInv s) (hb : s.ser = .busy) : ∃ t, s.txTake = .next t := by
  have hw : OwnerWaits s s.txOwner := h.ownerWaits hb
  have ho : s.txOwner ≠ .none := fun ho => by simp [h.owner_none.mp ho] at hb
  unfold State.txTake
  rw [if_neg ho]
  split
  · exact OwnerWaits.completion_goes hw
  · exact ⟨_, rfl⟩

/-- TX_FAIL answers a next state (R147). -/
theorem SerInv.txFail_goes {s : State} (h : SerInv s) (hb : s.ser = .busy) : ∃ t, s.txFail = .next t := by
  have hw : OwnerWaits s s.txOwner := h.ownerWaits hb
  exact OwnerWaits.failure_goes hw

/-- An instruction's meaning answers a next state, so its step does. -/
theorem goes_of_run {e : Event} {s : State} {i : Instr} (hen : enabled e s = true) (hf : fire e s = .run i) :
    Goes (chosen e s) := by
  obtain ⟨t, ht⟩ := exec_goes i s
  exact ⟨t, (step_of_run hen hf).trans ht⟩

/-- A bus write answers a next state. -/
theorem busWrite_goes (a : HostAddr) (v : Word) (s : State) : Goes (chosen (.busWrite a v) s) := by
  rcases s.busWrite_cases a v with ⟨i, hf⟩ | ⟨t, hf⟩
  · exact goes_of_run (e := .busWrite a v) rfl hf
  · exact ⟨t, step_of_done (e := .busWrite a v) rfl hf⟩

/-- The dispatcher's transition answers a next state: the slot's frame has a kind (R177). -/
theorem DesInv.dispatch_goes {s : State} (h : DesInv s) (hen : enabled .dispatch s = true) :
    Goes (chosen .dispatch s) := by
  cases hr : s.rxr with
  | empty => exact absurd hr ((enabled_dispatch_iff s).mp hen).2
  | timeout => exact ⟨s.missTimeout, step_of_done hen (by simp only [fire, State.dispatch, hr])⟩
  | reject r => exact ⟨s.missReject r, step_of_done hen (by simp only [fire, State.dispatch, hr])⟩
  | frame f =>
    obtain ⟨⟨k, hk⟩, -⟩ := h.slot_frame f hr
    have hi : f.toInstr = some (k.instr f.id f.payload) := by rw [Frame.toInstr, hk]; rfl
    exact goes_of_run hen (fire_dispatch_frame hr hi)

/-- A state with the invariant goes on, whatever transition is chosen. -/
theorem Inv.goes_chosen {s : State} (h : Inv s) (e : Event) : Goes (chosen e s) := by
  cases hen : enabled e s with
  | false => exact ⟨s, step_disabled hen⟩
  | true =>
    cases e with
    | txTake =>
      obtain ⟨t, ht⟩ := h.ser.txTake_goes ((enabled_txTake_iff s).mp hen)
      exact ⟨t, (step_of_done hen rfl).trans ht⟩
    | txErr =>
      obtain ⟨t, ht⟩ := h.ser.txFail_goes ((enabled_txErr_iff s).mp hen)
      exact ⟨t, (step_of_done hen rfl).trans ht⟩
    | txStall =>
      obtain ⟨t, ht⟩ := h.ser.txFail_goes ((enabled_txStall_iff s).mp hen).1
      exact ⟨t, (step_of_done hen rfl).trans ht⟩
    | busWrite a v => exact busWrite_goes a v s
    | dispatch => exact h.des.dispatch_goes hen
    | arrive | rxByte | rxErr | rxTimeout | ackTimeout | busRead | reset | tick | grant | acked =>
      exact ⟨_, step_of_done hen rfl⟩

/-- Taking the choice keeps the invariant. -/
theorem Inv.choose {s : State} (h : Inv s) : Inv s.choose.2 := by
  unfold State.choose
  split <;> exact h.bookkeeping

/-- Settles O50: a step is the chosen transition of a state with the invariant. -/
theorem invariantStatesGoOn : Obligations.InvariantStatesGoOn :=
  fun s h => h.choose.goes_chosen s.choose.1

/-! ### The unit in progress (R206, R210) -/

/-- The registers that SEND captures a unit in (R60). -/
structure SameUnit (s t : State) : Prop where
  id : t.sndId = s.sndId
  final : t.sndFinal = s.sndFinal
  image : t.sndImg = s.sndImg
  length : t.sndLen = s.sndLen

/-- ATTEMPT_FAIL queues the same unit again, or gives up (R204). -/
theorem SameUnit.attemptFail {s u : State} (h : SameUnit s u) :
    SameUnit s u.attemptFail ∨ u.attemptFail.snd = .reset := by
  rcases u.attemptFail_cases with ⟨-, e⟩ | ⟨-, e⟩ <;> rw [e]
  · exact .inr rfl
  · exact .inl ⟨h.id, h.final, h.image, h.length⟩

/-- ACK_TIMEOUT queues the same unit again, or gives up (R206). -/
theorem ackTimeout_unit (s : State) : SameUnit s s.ackTimeout ∨ s.ackTimeout.snd = .reset := by
  rcases s.ackTimeout_cases with ⟨-, e⟩ | ⟨-, e⟩ <;> rw [e]
  · exact .inr rfl
  · exact .inl ⟨rfl, rfl, rfl, rfl⟩

/-- A transition but `reset` keeps a unit in progress as SEND captured it, or gives it up (R208). -/
theorem fires_unit {e : Event} {s t : State} (h : Fires e s t) (he : e ≠ .reset) (hs : s.snd ≠ .idle) :
    SameUnit s t ∨ t.snd = .reset := by
  cases h with
  | spent | arrive | rxByte | rxErr | rxTimeout | byteTaken | attemptDone | resetSent | ackSent | resetFailed
  | ackFailed | acked | grant | tick | read | readRefused | writeIgnored | writeRefused | writeStatus | writeTxLen
  | writeIrqEn | writeTxBuf | commandRefused | dack | startRx | missTimeout | missReject | duplicate | newData
  | heldOff | overwritten | newEnd | ackMatched | ackStale | resetFrame =>
    left
    constructor <;> simp
  | attemptFailed => exact SameUnit.attemptFail ⟨rfl, rfl, rfl, rfl⟩
  | ackTimeout => exact ackTimeout_unit s
  | reset => exact absurd rfl he
  | send final nl hr =>
    have hrefused := (s.sendRefused_iff nl).mpr (.inr (.inl hs))
    rw [hr] at hrefused
    cases hrefused

/-- The writer of `NEXT_SEND_ID` (R205). -/
theorem step_nextSendId {e : Event} {s t : State} (he : e ≠ .reset) (h : step (chosen e s) = .next t) :
    t.ls.nextSendId = s.ls.nextSendId ∨ (s.snd = .wait ∧ s.ls.awaitAck = false ∧ t = s.acked) := by
  rcases fires_linkState (fires_of_step h) he with ⟨hls, -⟩ | ⟨rfl, hs, ha, -, -⟩ | ⟨-, -, -, -, -, hls⟩ |
    ⟨-, -, -, hls⟩ | ⟨-, _, -, ⟨-, -, -, hls⟩ | ⟨-, -, -, hls⟩ | ⟨-, -, -, hls⟩⟩
  case inr.inl =>
    have hacked : step (chosen .acked s) = .next s.acked := step_of_done ((enabled_acked_iff s).mpr ⟨hs, ha⟩) rfl
    exact .inr ⟨hs, ha, Host.Outcome.next.inj (h.symm.trans hacked)⟩
  all_goals exact .inl (by rw [hls])

/-- The flip of a 1-bit id (R205). -/
theorem one_sub_eq_xor (x : BitVec 1) : 1 - x = x ^^^ 1 := by
  revert x
  decide

/-- Settles O53: ACKED alone writes `NEXT_SEND_ID`, and only giving up replaces a unit in progress. -/
theorem unitKeepsItsIdAndImage : Obligations.UnitKeepsItsIdAndImage := by
  intro s t e he hstep
  refine ⟨?_, fun hs ht => ?_⟩
  · rcases step_nextSendId he hstep with h | ⟨hs, ha, rfl⟩
    · exact .inl h
    · exact .inr ⟨one_sub_eq_xor _, hs, ha, rfl, rfl, rfl⟩
  · have hbusy : s.snd ≠ .idle := by rcases hs with hs | hs <;> simp [hs]
    rcases fires_unit (fires_of_step hstep) he hbusy with ⟨hid, hfinal, himg, hlen⟩ | hreset
    · exact ⟨hid, hfinal, himg, hlen⟩
    · simp [hreset] at ht

/-! ### The incoming stream (R76, R77) -/

/-- Settles O56: an arrival appends, a byte taken was the first one, and no other transition writes the stream. -/
theorem incomingStreamIsOrdered : Obligations.IncomingStreamIsOrdered := by
  intro s t e hstep
  cases fires_of_step hstep with
  | arrive b => exact .inr (.inl ⟨b, rfl, rfl⟩)
  | @rxByte _ b rest hd hr hx => exact .inr (.inr ⟨b, rfl, hd, hr, by simpa using hx⟩)
  | spent hen => exact .inl ⟨rfl, by rintro b rfl; cases hen⟩
  | attemptFailed hf | resetFailed hf | ackFailed hf =>
    exact .inl ⟨by simp, by rintro b rfl; simp [State.FrameFails] at hf⟩
  | reset => exact .inl ⟨rfl, by simp⟩
  | rxErr | rxTimeout | byteTaken | attemptDone | resetSent | ackSent | ackTimeout | acked | grant | tick | read
  | readRefused | writeIgnored | writeRefused | writeStatus | writeTxLen | writeIrqEn | writeTxBuf
  | commandRefused | send | dack | startRx | missTimeout | missReject | duplicate | newData | heldOff | overwritten
  | newEnd | ackMatched | ackStale | resetFrame =>
    exact .inl ⟨by simp, by simp⟩

end Sys2Proof.Safety

/-! PROOFS. What the decoder makes of a frame image and of a command word (R91 to R107): the round trips in both
directions, and the encodings it rejects. -/

namespace Sys2Proof

/-! ### Sequences that lie whole (R173 to R175) -/

/-- A byte sequence with both markers, an admitted length and as many bytes as its length field says: what the decoder
asks before it runs the validator. -/
structure Framed (p : Params) (img : List Byte) : Prop where
  sync1 : be32 img 0 = p.sync
  sync2 : be32 img 4 = p.sync
  length_le : (be16 img 10).toNat ≤ p.maxPayload
  size : img.length = hdrLen + (be16 img 10).toNat

/-- What the decoder accepts is framed. -/
theorem framed_of_decodeFrame_ok {p : Params} {img : List Byte} {i : Instr} (h : decodeFrame p img = .ok i) :
    Framed p img := by
  unfold decodeFrame at h
  iterate 5 (split at h; · cases h)
  next _ hsync hlen hshort hlong =>
  obtain ⟨h1, h2⟩ := not_or.mp hsync
  exact ⟨not_not.mp h1, not_not.mp h2, not_lt.mp hlen, le_antisymm (not_lt.mp hlong) (not_lt.mp hshort)⟩

/-- The decoder passes on the validator's rejection. -/
theorem Framed.decodeFrame_reject {p : Params} {img : List Byte} {r : Reject} (h : Framed p img)
    (hv : validate img = .error r) : decodeFrame p img = .error (.reject r) := by
  obtain ⟨h1, h2, hlen, hsize⟩ := h
  simp [decodeFrame, h1, h2, hsize, hv, Nat.not_lt.mpr hlen]

/-- The decoder answers the instruction of the validator's frame. -/
theorem Framed.decodeFrame_accept {p : Params} {img : List Byte} {f : Frame} {i : Instr} (h : Framed p img)
    (hv : validate img = .ok f) (hi : f.toInstr = some i) : decodeFrame p img = .ok i := by
  obtain ⟨h1, h2, hlen, hsize⟩ := h
  simp [decodeFrame, h1, h2, hsize, hv, hi, Nat.not_lt.mpr hlen]

/-! ### The encoder's images -/

/-- RESET's flags byte selects RESET alone (R100). -/
theorem Kind.flags_eq_reset {f : Byte} {k : Kind} (hf : Kind.ofFlags f = some k) : f = 0x20#8 ↔ k = .reset := by
  rw [Kind.flags_of_ofFlags hf]
  cases k <;> decide

section FrameImage

variable {p : Params} {id : Half} {f : Byte} {d : List Byte}

/-- A payload within the parameters' bound fits the length field. -/
theorem length_eq_toNat_field (hp : p.Wf) (hd : d.length ≤ p.maxPayload) :
    d.length = (BitVec.ofNat 16 d.length).toNat := by
  have hmax : p.maxPayload ≤ 4096 := hp.1.2
  rw [BitVec.toNat_ofNat, Nat.mod_eq_of_lt (by omega)]

/-- An image with an admitted payload is framed. -/
theorem framed_frameImage (hp : p.Wf) (hd : d.length ≤ p.maxPayload) : Framed p (frameImage p id f d) := by
  have hlen := length_eq_toNat_field hp hd
  rw [frameImage_eq]
  constructor
  · exact rawImage_sync1 ..
  · exact rawImage_sync2 ..
  · rwa [rawImage_len, ← hlen]
  · rw [rawImage_len, rawImage_length, ← hlen]; rfl

/-- The validator's verdict on an image: its checksum is correct, so flags and id decide (R177, R178). -/
theorem validate_frameImage (hp : p.Wf) (hd : d.length ≤ p.maxPayload) : validate (frameImage p id f d) =
    if Kind.ofFlags f = none then .error .flags
    else if f ≠ 0x20#8 ∧ id ≠ 0#16 ∧ id ≠ 1#16 then .error .id
    else .ok { id := id, flags := f, length := BitVec.ofNat 16 d.length, payload := d } := by
  rw [frameImage_eq, validate_rawImage _ _ _ _ _ _ (length_eq_toNat_field hp hd), if_neg (not_not.mpr rfl)]

/-- Flags that select no kind are rejected (R101). -/
theorem decode_frameImage_of_flags_reserved (hp : p.Wf) (hd : d.length ≤ p.maxPayload)
    (hf : Kind.ofFlags f = none) : decode p (.frame (frameImage p id f d)) = .error (.reject .flags) :=
  (framed_frameImage hp hd).decodeFrame_reject (by rw [validate_frameImage hp hd, if_pos hf])

/-- An id other than 0 and 1 is rejected in every kind but RESET (R102). -/
theorem decode_frameImage_of_id_reserved {k : Kind} (hp : p.Wf) (hd : d.length ≤ p.maxPayload)
    (hf : Kind.ofFlags f = some k) (hk : k ≠ .reset) (hid : id ≠ 0#16 ∧ id ≠ 1#16) :
    decode p (.frame (frameImage p id f d)) = .error (.reject .id) := by
  have hflags : f ≠ 0x20#8 := mt (Kind.flags_eq_reset hf).mp hk
  refine (framed_frameImage hp hd).decodeFrame_reject ?_
  rw [validate_frameImage hp hd, if_neg (by simp [hf]), if_pos ⟨hflags, hid⟩]

/-- Every kind with an id it admits decodes to its instruction (R95, R102). -/
theorem decode_frameImage {k : Kind} (hp : p.Wf) (hd : d.length ≤ p.maxPayload) (hf : Kind.ofFlags f = some k)
    (hid : k = .reset ∨ id = 0#16 ∨ id = 1#16) :
    decode p (.frame (frameImage p id f d)) = .ok (k.instr id d) := by
  refine (framed_frameImage hp hd).decodeFrame_accept (f := ⟨id, f, BitVec.ofNat 16 d.length, d⟩) ?_ ?_
  · have hadmitted : ¬(f ≠ 0x20#8 ∧ id ≠ 0#16 ∧ id ≠ 1#16) := by
      rw [Ne, Kind.flags_eq_reset hf]
      tauto
    rw [validate_frameImage hp hd, if_neg (by simp [hf]), if_neg hadmitted]
  · rw [Frame.toInstr, hf]
    rfl

end FrameImage

/-- A kind's instruction is encoded as the kind's image. -/
theorem encode_kind (p : Params) (k : Kind) (id : Half) (d : List Byte) :
    encode p (k.instr id d) = .frame (frameImage p id k.flags d) := by cases k <;> rfl

/-- A framed sequence that passes the validator is the image of its frame: no byte of it is dropped (R125, R140). -/
theorem Framed.eq_frameImage {p : Params} {img : List Byte} {f : Frame} (h : Framed p img)
    (hv : validate img = .ok f) : img = frameImage p f.id f.flags f.payload := by
  obtain ⟨h1, h2, -, hsize⟩ := h
  rw [hdrLen] at hsize
  have himg := eq_rawImage p img (by omega) h1 h2
  have hd : (img.drop 15).length = (be16 img 10).toNat := by rw [List.length_drop]; omega
  generalize be16 img 8 = c, be16 img 10 = len, be16 img 12 = id, byteAt img 14 = flags, img.drop 15 = d
    at himg hd
  subst himg
  rw [validate_rawImage _ _ _ _ _ _ hd] at hv
  split at hv
  · cases hv
  next hc =>
  iterate 2 (split at hv; · cases hv)
  cases hv
  have hlen : BitVec.ofNat 16 d.length = len := by rw [hd, BitVec.ofNat_toNat, BitVec.setWidth_eq]
  rw [frameImage_eq, hlen, ← not_not.mp hc]

/-- What the frame decoder accepts is the encoding of its answer. -/
theorem encode_of_decodeFrame {p : Params} {img : List Byte} {i : Instr} (h : decodeFrame p img = .ok i) :
    encode p i = .frame img := by
  obtain ⟨f, hv, hi⟩ := Machine.decodeFrame_ok h
  obtain ⟨k, hk, rfl⟩ := Option.map_eq_some_iff.mp hi
  rw [encode_kind, ← Kind.flags_of_ofFlags hk, ← (framed_of_decodeFrame_ok h).eq_frameImage hv]

/-! ### Command words (R105 to R107) -/

/-- A command word is its three fields: reserved bits, arguments and opcode (R106). -/
theorem word_eq_fields (v : Word) : v = v.extractLsb' 10 22 ++ v.extractLsb' 8 2 ++ v.extractLsb' 0 8 := by
  rw [BitVec.extractLsb'_append_extractLsb'_eq_extractLsb' (by rfl),
    BitVec.extractLsb'_append_extractLsb'_eq_extractLsb' (by rfl)]
  exact BitVec.extractLsb'_eq_self.symm

/-- `FINAL` and `NL` are the two argument bits (R106). -/
theorem arguments_eq (v : Word) :
    v.extractLsb' 8 2 = BitVec.ofBool (v.getLsbD 9) ++ BitVec.ofBool (v.getLsbD 8) := by
  apply BitVec.eq_of_getLsbD_eq
  intro i hi
  rw [BitVec.getLsbD_append]
  obtain rfl | rfl : i = 0 ∨ i = 1 := by omega
  · simp
  · simp

/-- The fields of a SEND's word. -/
theorem sendWord_eq_fields (final nl : Bool) :
    sendWord final nl = 0#22 ++ (BitVec.ofBool nl ++ BitVec.ofBool final) ++ 0x01#8 := by
  cases final <;> cases nl <;> decide

/-- What the command decoder accepts is the encoding of its answer. -/
theorem encode_of_decodeCmd (p : Params) {v : Word} {i : Instr} (h : decodeCmd v = .ok i) : encode p i = .cmd v := by
  rw [word_eq_fields v]
  obtain ⟨hr, ⟨hop, harg, rfl⟩ | ⟨hop, rfl⟩ | ⟨hop, harg, rfl⟩ | ⟨hop, harg, rfl⟩⟩ := Machine.decodeCmd_cases h
  · rw [hr, hop, harg]; rfl
  · rw [hr, hop, arguments_eq, encode, sendWord_eq_fields]
  · rw [hr, hop, harg]; rfl
  · rw [hr, hop, harg]; rfl

/-- A SEND's word decodes to it, whatever its arguments. -/
theorem decodeCmd_sendWord (final nl : Bool) : decodeCmd (sendWord final nl) = .ok (.send final nl) := by
  cases final <;> cases nl <;> rfl

/-- A reserved opcode, a nonzero reserved bit, or an argument of a command that has none makes no command (R107). -/
theorem decodeCmd_illegal {v : Word} (h : 4 ≤ (v.extractLsb' 0 8).toNat ∨ v.extractLsb' 10 22 ≠ 0 ∨
    (v.extractLsb' 0 8 ≠ 1 ∧ v.extractLsb' 8 2 ≠ 0)) : ∃ x, decodeCmd v = .error x := by
  cases hv : decodeCmd v with
  | error x => exact ⟨x, rfl⟩
  | ok i =>
    obtain ⟨hr, hcases⟩ := Machine.decodeCmd_cases hv
    rcases h with h | h | ⟨hop, harg⟩
    · rcases hcases with ⟨hop, -⟩ | ⟨hop, -⟩ | ⟨hop, -⟩ | ⟨hop, -⟩ <;> simp [hop] at h
    · exact absurd hr h
    · rcases hcases with ⟨-, hzero, -⟩ | ⟨hsend, -⟩ | ⟨-, hzero, -⟩ | ⟨-, hzero, -⟩
      exacts [absurd hzero harg, absurd hsend hop, absurd hzero harg, absurd hzero harg]

/-- A write of an illegal word to `CMD` (R260). -/
theorem Machine.fire_busWrite_cmd_error {s : State} {v : Word} {x : DecodeError} (h : decodeCmd v = .error x) :
    fire (.busWrite 0x0000#16 v) s = .done (.next s.commandError) := by
  have ht : target s.cfg 0x0000#16 = .cmd := rfl
  simp only [fire, State.busWrite, ht, h]

/-! ### Both directions of the round trip (R91, R106, R140) -/

/-- A well-formed frame instruction has an id its kind admits and a payload within the bound (R94, R95). -/
theorem Kind.wf_instr {p : Params} {k : Kind} {id : Half} {d : List Byte} (h : (k.instr id d).wf p = true) :
    (k = .reset ∨ id = 0#16 ∨ id = 1#16) ∧ d.length ≤ p.maxPayload := by
  cases k <;> simpa [Kind.instr, Instr.wf, Instr.idOk, Instr.lengthOk] using h

/-- A well-formed frame instruction comes back from its encoding (R91, R140). -/
theorem decode_encode_kind {p : Params} (k : Kind) {id : Half} {d : List Byte} (hp : p.Wf)
    (h : (k.instr id d).wf p = true) : decode p (encode p (k.instr id d)) = .ok (k.instr id d) := by
  obtain ⟨hid, hd⟩ := Kind.wf_instr h
  rw [encode_kind]
  exact decode_frameImage hp hd (Kind.ofFlags_flags k) hid

/-- Settles O1: a frame by its kind, a command by its word. -/
theorem decodeOfEncode : Obligations.DecodeOfEncode := by
  intro p i hp h
  cases i with
  | dataFrame id d => exact decode_encode_kind .data hp h
  | ackFrame id d => exact decode_encode_kind .ack hp h
  | endFrame id d => exact decode_encode_kind .fin hp h
  | resetFrame id d => exact decode_encode_kind .reset hp h
  | send final nl => exact decodeCmd_sendWord final nl
  | nop | dack | startRx => rfl

/-- Settles O2: the decoder reads every bit of a frame and of a command word. -/
theorem encodeOfDecode : Obligations.EncodeOfDecode := by
  intro p c i h
  cases c with
  | frame img => exact encode_of_decodeFrame h
  | cmd v => exact encode_of_decodeCmd p h

/-! ### What is rejected (R101, R102, R107) -/

/-- A flags byte that is no kind's selects none (R101). -/
theorem Kind.ofFlags_eq_none {f : Byte} (h : ∀ k : Kind, f ≠ k.flags) : Kind.ofFlags f = none := by
  cases hf : Kind.ofFlags f with
  | none => rfl
  | some k => exact absurd (Kind.flags_of_ofFlags hf) (h k)

/-- Settles O4: no kind has the flags byte, and the encoder's checksum is correct. -/
theorem reservedFlagsRejected : Obligations.ReservedFlagsRejected := by
  intro p id f d hp hd hdata hack hfin hreset
  have hkind : Kind.ofFlags f = none := Kind.ofFlags_eq_none fun k => by cases k <;> assumption
  exact decode_frameImage_of_flags_reserved hp hd hkind

/-- Settles O5: the validator asks for an id of 0 or 1 in every kind but RESET. -/
theorem reservedIdRejected : Obligations.ReservedIdRejected := by
  intro p id d hp hd
  refine ⟨fun f hf hid => ?_, decode_frameImage hp hd rfl (.inl rfl)⟩
  have hreserved : id ≠ 0#16 ∧ id ≠ 1#16 := by
    constructor <;> rintro rfl <;> simp at hid
  obtain ⟨k, hk, hreset⟩ : ∃ k, Kind.ofFlags f = some k ∧ k ≠ .reset := by
    rcases hf with rfl | rfl | rfl
    · exact ⟨.data, rfl, by decide⟩
    · exact ⟨.ack, rfl, by decide⟩
    · exact ⟨.fin, rfl, by decide⟩
  exact decode_frameImage_of_id_reserved hp hd hk hreset hreserved

/-- Settles O19: such a word is none the command decoder accepts (R107, R260). -/
theorem illegalCommandWord : Obligations.IllegalCommandWord := by
  intro s v h
  obtain ⟨x, hx⟩ := decodeCmd_illegal h
  exact Machine.step_of_done rfl (Machine.fire_busWrite_cmd_error hx)

/-! ### Encodings written out -/

/-- An encoding written out decodes to its instruction. -/
theorem decode_of_encode_eq {p : Params} {i : Instr} {c : Code} (hp : p.Wf) (hi : i.wf p = true)
    (hc : encode p i = c) : decode p c = .ok i := hc ▸ decodeOfEncode p i hp hi

/-- Settles O3: each is what the encoder writes. -/
theorem writtenOutWordsDecode : Obligations.WrittenOutWordsDecode := by
  have hp : Config.vectorParams.Wf := by decide
  refine ⟨?_, ?_, ?_, ?_, ?_, ?_, ?_, ?_⟩ <;> exact decode_of_encode_eq hp (by decide) (by decide)

end Sys2Proof

/-! PROOFS. The checksum unit: the accumulator of a frame is the unbounded sum of its words (R126), so that the checksum
depends on that sum alone (R129), tells two sums of different residue modulo 0xFFFF apart (R128) and complements the
sum's residue (R127). -/

namespace Sys2Proof

open Sys2Proof.Safety

/-! ### The accumulator (R120, R126) -/

section

variable {buf : List Byte} (hlen : buf.length ≤ 15 + 65535)

include hlen

/-- R126's bound: a frame holds at most 32775 words. -/
theorem wordSum_le_of_frame : wordSum buf ≤ 32775 * 65535 := by
  have hwords : (buf.length + 1) / 2 ≤ 32775 := by omega
  calc wordSum buf ≤ 0xFFFF * ((buf.length + 1) / 2) := wordSum_le buf
    _ ≤ 0xFFFF * 32775 := Nat.mul_le_mul_left _ hwords
    _ = 32775 * 65535 := by norm_num

/-- The accumulator of a frame does not wrap (R126). -/
theorem sumWords_eq_wordSum : sumWords 0 buf = wordSum buf := by
  have hsum := wordSum_le_of_frame hlen
  rw [sumWords_eq 0 buf (by norm_num), Nat.zero_add, Nat.mod_eq_of_lt (by omega)]

/-- What folding makes of a frame's sum (R122). -/
theorem foldSum_frame : foldSum 3 (sumWords 0 buf) < 2 ^ 16 ∧
    foldSum 3 (sumWords 0 buf) % 0xFFFF = wordSum buf % 0xFFFF ∧
    (foldSum 3 (sumWords 0 buf) = 0 ↔ wordSum buf = 0) := by
  have hsum := wordSum_le_of_frame hlen
  rw [sumWords_eq_wordSum hlen]
  exact foldSum_spec _ (by omega)

/-- The checksum and the sum cancel modulo 0xFFFF. -/
theorem wordSum_add_cksum : (wordSum buf + (cksum buf).toNat) % 0xFFFF = 0 := by
  obtain ⟨hlt, hres, -⟩ := foldSum_frame hlen
  rw [cksum_toNat]
  omega

/-- The second verification method of R127 accepts a nonzero sum exactly when its residue is 0. -/
theorem sumsToOnes_iff (hsum : wordSum buf ≠ 0) : sumsToOnes buf = true ↔ wordSum buf % 0xFFFF = 0 := by
  obtain ⟨hlt, hres, hzero⟩ := foldSum_frame hlen
  rw [sumsToOnes, beq_iff_eq]
  omega

end

/-- Settles O6: at most 32775 words, and their sum stays below 2^32. -/
theorem checksumNeverWraps : Obligations.ChecksumNeverWraps := fun _ hlen =>
  ⟨sumWords_eq_wordSum hlen, wordSum_le_of_frame hlen, by norm_num⟩

/-! ### The order of the words (R129) -/

/-- The checksum depends on the sum of the words alone. -/
theorem cksum_congr {xs ys : List Byte} (h : wordSum xs = wordSum ys) : cksum xs = cksum ys := by
  rw [cksum_eq_iff, sumWords_eq 0 xs (by norm_num), sumWords_eq 0 ys (by norm_num), h]

/-- The word of two bytes (R13, R121). -/
theorem wordSum_bytesBe16 (v : Half) : wordSum (bytesBe16 v) = v.toNat := by
  have hhi := (v.extractLsb' 8 8).isLt
  have hlo := (v.extractLsb' 0 8).isLt
  calc wordSum (bytesBe16 v) = (v.extractLsb' 8 8).toNat * 256 + (v.extractLsb' 0 8).toNat := by
        simp [bytesBe16, wordSum]
    _ = v.toNat := by
        conv_rhs => rw [← half_of_bytes v, BitVec.toNat_ofNat, Nat.mod_eq_of_lt (by omega)]

/-- A word in front of other bytes. -/
theorem wordSum_bytesBe16_append (v : Half) (xs : List Byte) :
    wordSum (bytesBe16 v ++ xs) = v.toNat + wordSum xs := by
  rw [wordSum_append _ _ (by simp [bytesBe16]), wordSum_bytesBe16]

/-- The bytes of whole words, with any tail. -/
theorem wordSum_wordBytes_append (ws : List Half) (tail : List Byte) :
    wordSum (wordBytes ws ++ tail) = (ws.map BitVec.toNat).sum + wordSum tail := by
  induction ws with
  | nil => simp [wordBytes]
  | cons w ws ih =>
    have hcons : wordBytes (w :: ws) ++ tail = bytesBe16 w ++ (wordBytes ws ++ tail) := by simp [wordBytes]
    rw [hcons, wordSum_bytesBe16_append, ih, List.map_cons, List.sum_cons, Nat.add_assoc]

/-- Settles O7: a sum does not depend on the order of its words. -/
theorem checksumIgnoresWordOrder : Obligations.ChecksumIgnoresWordOrder := by
  intro ws vs tail h
  have hsum : (ws.map BitVec.toNat).sum = (vs.map BitVec.toNat).sum := (h.map _).sum_eq
  exact cksum_congr (by rw [wordSum_wordBytes_append, wordSum_wordBytes_append, hsum])

/-! ### One byte changed (R128) -/

/-- The place value of byte `k` in the sum: high bytes stand at even offsets (R121). -/
def byteWeight (k : Nat) : Nat := if k % 2 = 0 then 256 else 1

/-- Two bytes on, the place value is the same. -/
theorem byteWeight_add_two (k : Nat) : byteWeight (k + 2) = byteWeight k := by
  rw [byteWeight, Nat.add_mod_right, byteWeight]

/-- The sum after one byte is replaced. -/
theorem wordSum_set (xs : List Byte) (k : Nat) (hk : k < xs.length) (b : Byte) :
    wordSum (xs.set k b) + byteWeight k * xs[k].toNat = wordSum xs + byteWeight k * b.toNat := by
  induction xs using wordSum.induct generalizing k with
  | case1 => simp at hk
  | case2 hi =>
    obtain rfl : k = 0 := by simpa using hk
    simp [wordSum, byteWeight]
    omega
  | case3 hi lo rest ih =>
    match k with
    | 0 => simp [wordSum, byteWeight]; omega
    | 1 => simp [wordSum, byteWeight]; omega
    | k + 2 =>
      have hrest := ih k (by simpa using hk)
      simp only [List.set_cons_succ, wordSum, byteWeight_add_two, List.getElem_cons_succ]
      omega

/-- A byte's place value times a difference of bytes is below 0xFFFF: another byte makes another checksum. -/
theorem cksum_set_ne {xs : List Byte} (hlen : xs.length ≤ 15 + 65535) {k : Nat} (hk : k < xs.length) {b : Byte}
    (hb : b ≠ xs[k]) : cksum (xs.set k b) ≠ cksum xs := by
  intro h
  have hnew := wordSum_add_cksum (buf := xs.set k b) (by rwa [List.length_set])
  have hold := wordSum_add_cksum hlen
  rw [h] at hnew
  have hset := wordSum_set xs k hk b
  have hne : b.toNat ≠ xs[k].toNat := fun hn => hb (BitVec.eq_of_toNat_eq hn)
  have := b.isLt
  have := xs[k].isLt
  obtain hw | hw : byteWeight k = 256 ∨ byteWeight k = 1 := by unfold byteWeight; split <;> simp
  all_goals rw [hw] at hset; omega

/-- The byte replaced. -/
theorem byteAt_set_same {xs : List Byte} {k : Nat} (hk : k < xs.length) (b : Byte) : byteAt (xs.set k b) k = b := by
  rw [byteAt_eq_getElem _ _ (by rwa [List.length_set]), List.getElem_set_self]

/-- Every other byte. -/
theorem byteAt_set_of_ne (xs : List Byte) {j k : Nat} (h : k ≠ j) (b : Byte) : byteAt (xs.set k b) j = byteAt xs j := by
  simp only [byteAt, List.getD_eq_getElem?_getD, List.getElem?_set_ne h]

/-- A 16-bit field is its two bytes (R13). -/
theorem be16_eq_iff (xs ys : List Byte) (k : Nat) :
    be16 xs k = be16 ys k ↔ byteAt xs k = byteAt ys k ∧ byteAt xs (k + 1) = byteAt ys (k + 1) := by
  constructor
  · intro h
    have hbytes : [byteAt xs k, byteAt xs (k + 1)] = [byteAt ys k, byteAt ys (k + 1)] := by
      rw [← bytes_of_half, ← bytes_of_half]
      exact congrArg bytesBe16 h
    simpa using hbytes
  · rintro ⟨h0, h1⟩
    rw [be16, h0, h1, ← be16]

/-- A byte of the checksum field does not survive zeroing the field. -/
theorem zeroChecksum_set_of_field (img : List Byte) {k : Nat} (hk : k = 8 ∨ k = 9) (b : Byte) :
    zeroChecksum (img.set k b) = zeroChecksum img := by
  rcases hk with rfl | rfl
  · rw [zeroChecksum, List.set_set, zeroChecksum]
  · rw [zeroChecksum, List.set_comm _ _ (by decide), List.set_set, List.set_comm _ _ (by decide), zeroChecksum]

/-- Zeroing the checksum field leaves every other byte. -/
theorem zeroChecksum_set_of_ne (img : List Byte) {k : Nat} (h8 : k ≠ 8) (h9 : k ≠ 9) (b : Byte) :
    zeroChecksum (img.set k b) = (zeroChecksum img).set k b := by
  rw [zeroChecksum, zeroChecksum, List.set_comm _ _ h8, List.set_comm _ _ h9]

/-- Zeroing the checksum field keeps the length. -/
@[simp] theorem zeroChecksum_length (img : List Byte) : (zeroChecksum img).length = img.length := by
  simp [zeroChecksum]

/-- In a checksum-correct image any change of one byte is detected: in the checksum field the stored value changes, and
elsewhere the recomputed one. -/
theorem byte_change_detected {img : List Byte} (hlen : img.length ≤ 15 + 65535)
    (hck : be16 img 8 = cksum (zeroChecksum img)) {k : Nat} (hk : k < img.length) {b : Byte} (hb : b ≠ byteAt img k) :
    be16 (img.set k b) 8 ≠ cksum (zeroChecksum (img.set k b)) := by
  by_cases hfield : k = 8 ∨ k = 9
  · rw [zeroChecksum_set_of_field img hfield, ← hck, Ne, be16_eq_iff]
    rintro ⟨h0, h1⟩
    rcases hfield with rfl | rfl
    · exact hb (by rw [← h0, byteAt_set_same hk])
    · exact hb (by rw [← h1, byteAt_set_same hk])
  · obtain ⟨h8, h9⟩ := not_or.mp hfield
    have hstored : be16 (img.set k b) 8 = be16 img 8 :=
      (be16_eq_iff ..).mpr ⟨byteAt_set_of_ne img h8 b, byteAt_set_of_ne img h9 b⟩
    have hk' : k < (zeroChecksum img).length := by rwa [zeroChecksum_length]
    have hb' : b ≠ (zeroChecksum img)[k] := by
      rw [byteAt_eq_getElem img k hk] at hb
      simpa [zeroChecksum, List.getElem_set, Ne.symm h8, Ne.symm h9] using hb
    rw [hstored, hck, zeroChecksum_set_of_ne img h8 h9]
    exact (cksum_set_ne (by rwa [zeroChecksum_length]) hk' hb').symm

/-- The encoder's checksum is correct (R124). -/
theorem frameImage_cksum (p : Params) (id : Half) (f : Byte) (d : List Byte) :
    be16 (frameImage p id f d) 8 = cksum (zeroChecksum (frameImage p id f d)) := by
  rw [frameImage_eq, rawImage_cksum, rawImage_zero]

/-- A bit inverted makes another byte. -/
theorem xor_bit_ne (b : Byte) {m : Nat} (hm : m < 8) : b ^^^ (1#8 <<< m) ≠ b := by
  intro h
  have hbit := congrArg (BitVec.getLsbD · m) h
  simp [hm] at hbit

/-- Settles O8: a bit inverted is a byte changed. -/
theorem singleBitFlipDetected : Obligations.SingleBitFlipDetected := by
  intro p id f d k m _ hd hk hm
  have hlen := frameImage_length p id f d
  exact byte_change_detected (by omega) (frameImage_cksum p id f d) (by rwa [hlen]) (xor_bit_ne _ hm)

/-! ### Two verification methods (R125, R127) -/

/-- A nonzero marker adds to the sum. -/
theorem wordSum_bytesBe32_ne_zero {v : BitVec 32} (h : v ≠ 0) : wordSum (bytesBe32 v) ≠ 0 := by
  intro hsum
  have hbytes : (v.extractLsb' 24 8).toNat * 256 + (v.extractLsb' 16 8).toNat +
    ((v.extractLsb' 8 8).toNat * 256 + (v.extractLsb' 0 8).toNat + 0) = 0 := hsum
  apply h
  rw [← word_of_bytes v]
  obtain ⟨h24, h16, h8, h0⟩ : (v.extractLsb' 24 8).toNat = 0 ∧ (v.extractLsb' 16 8).toNat = 0 ∧
    (v.extractLsb' 8 8).toNat = 0 ∧ (v.extractLsb' 0 8).toNat = 0 := by omega
  rw [h24, h16, h8, h0]
  rfl

/-- The sum of an image: both markers, the checksum field, and the bytes behind it. -/
theorem rawImage_wordSum (p : Params) (c len id : Half) (f : Byte) (d : List Byte) :
    wordSum (rawImage p c len id f d) = wordSum (bytesBe32 p.sync) + wordSum (bytesBe32 p.sync) + c.toNat +
      wordSum (bytesBe16 len ++ bytesBe16 id ++ [f] ++ d) := by
  have hmarker : (bytesBe32 p.sync).length % 2 = 0 := by simp [bytesBe32]
  have hsplit : rawImage p c len id f d = bytesBe32 p.sync ++ (bytesBe32 p.sync ++ (bytesBe16 c ++
    (bytesBe16 len ++ bytesBe16 id ++ [f] ++ d))) := by simp [rawImage]
  rw [hsplit, wordSum_append _ _ hmarker, wordSum_append _ _ hmarker, wordSum_bytesBe16_append]
  omega

/-- Storing a checksum in the encoder's image. -/
theorem storeChecksum_frameImage (p : Params) (id : Half) (f : Byte) (d : List Byte) (x : Half) :
    storeChecksum (frameImage p id f d) x = rawImage p x (BitVec.ofNat 16 d.length) id f d := rfl

/-- Settles O9: the first method compares residues of sums, the second the stored value. -/
theorem sumMethodAcceptsMore : Obligations.SumMethodAcceptsMore := by
  intro p id f d x hsync hd
  rw [storeChecksum_frameImage, frameImage_eq, rawImage_zero]
  have hfield : d.length = (BitVec.ofNat 16 d.length).toNat := by
    rw [BitVec.toNat_ofNat, Nat.mod_eq_of_lt (by omega)]
  generalize BitVec.ofNat 16 d.length = len at hfield
  have hmarker := wordSum_bytesBe32_ne_zero hsync
  have hstored := rawImage_wordSum p x len id f d
  have hzeroed := rawImage_wordSum p 0 len id f d
  have hck := wordSum_add_cksum (buf := rawImage p 0 len id f d) (by rw [rawImage_length]; omega)
  constructor
  · rw [sumsToOnes_iff (by rw [rawImage_length]; omega) (by omega)]
    have hzero : (0 : Half).toNat = 0 := rfl
    omega
  · rw [ckver_rawImage _ _ _ _ _ _ hfield, beq_iff_eq]

end Sys2Proof

/-! PROOFS. A byte of a candidate, and the verdict at its last byte (R173 to R179). -/

namespace Sys2Proof

/-! ### `validate()` on a whole candidate (R176 to R179) -/

section

variable {c : List Byte} (hsize : c.length = hdrLen + (be16 c 10).toNat)

include hsize

/-- CKVER of a candidate that lies whole compares the stored checksum with the recomputed one (R125). -/
theorem ckver_of_whole : ckver c = (be16 c 8 == cksum (zeroChecksum c)) := by
  rw [ckver, List.take_of_length_le (by rw [zeroChecksum_length, hsize])]

/-- The validator's verdict on a candidate that lies whole: checksum, then flags, then id. -/
theorem validate_of_whole : validate c =
    if be16 c 8 ≠ cksum (zeroChecksum c) then .error .checksum
    else if Kind.ofFlags (byteAt c 14) = none then .error .flags
    else if byteAt c 14 ≠ 0x20#8 ∧ be16 c 12 ≠ 0#16 ∧ be16 c 12 ≠ 1#16 then .error .id
    else .ok { id := be16 c 12, flags := byteAt c 14, length := be16 c 10, payload := c.drop 15 } := by
  have hpayload : (c.drop hdrLen).take (be16 c 10).toNat = c.drop 15 :=
    List.take_of_length_le (by rw [List.length_drop, hsize]; omega)
  simp only [validate, List.take_of_length_le hsize.le, ckver_of_whole hsize, hpayload, beq_eq_false_iff_ne]

/-- A wrong checksum (R176). -/
theorem validate_of_cksum_ne (hck : be16 c 8 ≠ cksum (zeroChecksum c)) : validate c = .error .checksum := by
  rw [validate_of_whole hsize, if_pos hck]

variable (hck : be16 c 8 = cksum (zeroChecksum c))

include hck

/-- A correct checksum with reserved flags (R177). -/
theorem validate_of_flags_reserved (hdata : byteAt c 14 ≠ 0x00) (hack : byteAt c 14 ≠ 0x80)
    (hfin : byteAt c 14 ≠ 0x40) (hreset : byteAt c 14 ≠ 0x20) : validate c = .error .flags := by
  have hnone : Kind.ofFlags (byteAt c 14) = none := Kind.ofFlags_eq_none fun k => by cases k <;> assumption
  rw [validate_of_whole hsize, if_neg (not_not.mpr hck), if_pos hnone]

/-- A correct checksum and a kind other than RESET with a reserved id (R178). -/
theorem validate_of_id_reserved (hf : byteAt c 14 = 0x00 ∨ byteAt c 14 = 0x80 ∨ byteAt c 14 = 0x40)
    (hid : 2 ≤ (be16 c 12).toNat) : validate c = .error .id := by
  obtain ⟨hkind, hreset⟩ : Kind.ofFlags (byteAt c 14) ≠ none ∧ byteAt c 14 ≠ 0x20#8 := by
    rcases hf with hf | hf | hf <;> rw [hf] <;> decide
  have hreserved : be16 c 12 ≠ 0#16 ∧ be16 c 12 ≠ 1#16 := by
    constructor <;> intro h <;> simp [h] at hid
  rw [validate_of_whole hsize, if_neg (not_not.mpr hck), if_neg hkind, if_pos ⟨hreset, hreserved⟩]

/-- A correct checksum and a kind with an id it admits (R179). -/
theorem validate_accepts (h : byteAt c 14 = 0x20 ∨ ((byteAt c 14 = 0x00 ∨ byteAt c 14 = 0x80 ∨ byteAt c 14 = 0x40) ∧
    (be16 c 12 = 0 ∨ be16 c 12 = 1))) : validate c = .ok ⟨be16 c 12, byteAt c 14, be16 c 10, c.drop 15⟩ := by
  have hkind : Kind.ofFlags (byteAt c 14) ≠ none := by
    rcases h with hf | ⟨hf | hf | hf, -⟩ <;> rw [hf] <;> decide
  have hadmitted : ¬(byteAt c 14 ≠ 0x20#8 ∧ be16 c 12 ≠ 0#16 ∧ be16 c 12 ≠ 1#16) := by
    rintro ⟨hreset, h0, h1⟩
    rcases h with hf | ⟨-, hid | hid⟩
    exacts [hreset hf, h0 hid, h1 hid]
  rw [validate_of_whole hsize, if_neg (not_not.mpr hck), if_neg hkind, if_neg hadmitted]

end

/-- The result that a verdict leaves in the slot (R179, R182). -/
def verdict : Except Reject Frame → Machine.RoundResult
  | .error r => .reject r
  | .ok f => .frame f

namespace Machine

open Sys2Proof.Safety

/-- `validate()` writes the verdict on the whole candidate into the slot. -/
theorem State.validateCand_eq {s : State} (h : s.cand.length ≤ hdrLen + s.candPl.toNat) :
    s.validateCand = { s with rxr := verdict (validate s.cand) } := by
  rw [State.validateCand, List.take_of_length_le h]
  cases validate s.cand <;> rfl

/-! ### The bytes (R173 to R175) -/

/-- A waiting byte reaches a ready deserializer. -/
theorem step_rxByte {s t : State} {b : Byte} {rest : List Byte} (hd : s.dsp = .recv) (hr : s.rxr = .empty)
    (hx : s.rxStream = b :: rest) (ht : State.takeByte { s with rxStream := rest } b = t) :
    step (chosen .rxByte s) = .next t := by
  have hen : enabled .rxByte s = true := (enabled_rxByte_iff s).mpr ⟨⟨hd, hr⟩, by simp [hx]⟩
  rw [step_of_done hen rfl, State.rxByte, hx, ← ht]

/-- The candidate with its next byte, and its length field taken (R174). -/
def State.takeLength (s : State) (b : Byte) : State :=
  { s with
    rxTmr := some s.cfg.rxTimeout, cand := s.cand.take s.candN ++ [b], candN := s.candN + 1
    candPl := be16 (s.cand.take s.candN ++ [b]) 10 }

/-- The next byte, then the length field. -/
theorem State.takeLength_eq (s : State) (b : Byte) :
    s.takeLength b = { s.pushCand b with candPl := be16 (s.pushCand b).cand 10 } := rfl

section

variable {s : State} (b : Byte)

/-- A byte of the header before its 15th (R173), or of the payload before its last (R175). -/
theorem State.takeByte_before_last
    (h : (s.des = .hdr ∧ s.candN < 14) ∨ (s.des = .pay ∧ s.candN + 1 ≠ 15 + s.candPl.toNat)) :
    s.takeByte b = s.pushCand b := by
  rcases h with ⟨hdes, hn⟩ | ⟨hdes, hn⟩
  · have hbefore : (s.pushCand b).candN ≠ hdrLen := by simp [hdrLen]; omega
    simp only [State.takeByte, hdes, State.hdrByte, if_neg hbefore]
  · have hbefore : (s.pushCand b).candN ≠ hdrLen + (s.pushCand b).candPl.toNat := by simpa [hdrLen] using hn
    simp only [State.takeByte, hdes, State.payByte, if_neg hbefore]

/-- The header's 15th byte: the length field decides (R174). -/
theorem State.takeByte_header_end (hdes : s.des = .hdr) (hn : s.candN = 14) : s.takeByte b =
    if s.cfg.maxPayload < (s.takeLength b).candPl.toNat then (s.takeLength b).rejectRound .length
    else if (s.takeLength b).candPl = 0 then (s.takeLength b).validateCand
    else { s.takeLength b with des := .pay } := by
  have hlast : (s.pushCand b).candN = hdrLen := by simp [hn, hdrLen]
  simp only [State.takeByte, hdes, State.hdrByte, if_pos hlast]
  rfl

/-- A length above `MAX_PAYLOAD` (R174). -/
theorem State.takeByte_of_length_above_max (hdes : s.des = .hdr) (hn : s.candN = 14)
    (hlong : s.cfg.maxPayload < (s.takeLength b).candPl.toNat) :
    s.takeByte b = { s.takeLength b with rxr := .reject .length } := by
  rw [State.takeByte_header_end b hdes hn, if_pos hlong, State.rejectRound]

/-- An admitted length other than 0 (R174). -/
theorem State.takeByte_of_length_admitted (hdes : s.des = .hdr) (hn : s.candN = 14) (hpos : (s.takeLength b).candPl ≠ 0)
    (hle : (s.takeLength b).candPl.toNat ≤ s.cfg.maxPayload) :
    s.takeByte b = { s.takeLength b with des := .pay } := by
  rw [State.takeByte_header_end b hdes hn, if_neg (not_lt.mpr hle), if_neg hpos]

/-- A byte is a candidate's last: the 15th with a length of 0, or the payload's last (R174, R175). -/
def State.LastByte (s : State) (b : Byte) : Prop :=
  (s.des = .hdr ∧ s.candN = 14 ∧ (s.takeLength b).candPl = 0) ∨
  (s.des = .pay ∧ s.candN + 1 = 15 + s.candPl.toNat ∧ (s.takeLength b).candPl = s.candPl)

variable {b}

/-- With its last byte the candidate lies whole. -/
theorem State.LastByte.whole (h : s.LastByte b) (hcand : s.candN ≤ s.cand.length) :
    (s.takeLength b).cand.length = hdrLen + (s.takeLength b).candPl.toNat := by
  have hpush : (s.takeLength b).cand.length = s.candN + 1 := by
    change (s.cand.take s.candN ++ [b]).length = s.candN + 1
    rw [List.length_append, List.length_take_of_le hcand, List.length_singleton]
  rw [hpush, hdrLen]
  rcases h with ⟨-, hn, hpl⟩ | ⟨-, hn, hpl⟩
  · rw [hpl, hn]; rfl
  · rw [hpl, hn]

/-- A candidate's last byte runs the validator on the whole candidate (R174 to R176). -/
theorem State.takeByte_last (h : s.LastByte b) (hcand : s.candN ≤ s.cand.length) :
    s.takeByte b = { s.takeLength b with rxr := verdict (validate (s.takeLength b).cand) } := by
  rw [← State.validateCand_eq (h.whole hcand).le]
  rcases h with ⟨hdes, hn, hpl⟩ | ⟨hdes, hn, hpl⟩
  · rw [State.takeByte_header_end b hdes hn, if_neg (by simp [hpl]), if_pos hpl]
  · have hlast : (s.pushCand b).candN = hdrLen + (s.pushCand b).candPl.toNat := by simpa [hdrLen] using hn
    have htake : s.takeLength b = s.pushCand b := by
      have hfield : be16 (s.pushCand b).cand 10 = (s.pushCand b).candPl := hpl
      rw [State.takeLength_eq, hfield]
    simp only [State.takeByte, hdes, State.payByte, if_pos hlast, htake]

end

/-- Settles O42: the byte joins the candidate; at the header's end the length decides, and at the candidate's last byte
the validator's verdict on the whole of it. -/
theorem headerAndPayloadBytes : Obligations.HeaderAndPayloadBytes := by
  rintro s b rest _ hd hr hx hcand rfl
  have h15 (hn : s.candN = 14) : 15 = s.candN + 1 := by rw [hn]
  refine ⟨fun h => ?_, fun hdes hn hlong => ?_, fun hdes hn hpos hle => ?_, fun h => ?_⟩
  · exact step_rxByte hd hr hx (State.takeByte_before_last b h)
  · rw [h15 hn]
    exact step_rxByte hd hr hx (State.takeByte_of_length_above_max b hdes hn hlong)
  · rw [h15 hn]
    exact step_rxByte hd hr hx (State.takeByte_of_length_admitted b hdes hn hpos hle)
  · have hlast : s.LastByte b := h
    have hsize := hlast.whole hcand
    refine ⟨_, step_rxByte hd hr hx (State.takeByte_last (s := { s with rxStream := rest }) h hcand), ?_, ?_⟩
    · exact fun hck => congrArg verdict (validate_of_cksum_ne hsize hck)
    · rintro hck _ rfl
      exact ⟨fun ⟨h0, h80, h40, h20⟩ => congrArg verdict (validate_of_flags_reserved hsize hck h0 h80 h40 h20),
        fun hkind hid => congrArg verdict (validate_of_id_reserved hsize hck hkind hid),
        fun hok => congrArg verdict (validate_accepts hsize hck hok)⟩

end Machine

end Sys2Proof

/-! PROOFS. The serializer's grant, a byte before a frame's last, and a received RESET (R144 to R146, R232). -/

namespace Sys2Proof.Machine

open Sys2Proof.Safety

/-! ### TX_GRANT (R144) -/

/-- An idle serializer grants a pending request outside the fatal state. -/
theorem enabled_grant_iff (s : State) :
    enabled .grant s = true ↔ s.ser = .idle ∧ (s.ackReq = true ∨ s.sndReq = true) ∧ s.fatal = false := by
  simp [enabled, and_assoc]

/-- With an ACK pending, its request is the one granted. -/
theorem State.grant_of_ackReq {s : State} (h : s.ackReq = true) :
    s.grant = { s with
      txOwner := .dsp, ackReq := false, txPos := 0, ser := .busy, stallTmr := some s.cfg.txStallTimeout } := by
  simp [State.grant, State.armStall, h]

/-- With no ACK pending, the sender's request is granted. -/
theorem State.grant_of_no_ackReq {s : State} (h : s.ackReq = false) :
    s.grant = { s with
      txOwner := .snd, sndReq := false, txPos := 0, ser := .busy, stallTmr := some s.cfg.txStallTimeout } := by
  simp [State.grant, State.armStall, h]

/-- Settles O33: the guard of TX_GRANT, and the request that each case of it grants. -/
theorem grantPrefersAck : Obligations.GrantPrefersAck := by
  refine fun s => ⟨fun hs hf ha => ?_, fun hs hf ha hq => ?_, fun h => ?_⟩
  · rw [step_of_done ((enabled_grant_iff s).mpr ⟨hs, .inl ha, hf⟩) rfl, State.grant_of_ackReq ha]
  · rw [step_of_done ((enabled_grant_iff s).mpr ⟨hs, .inr hq, hf⟩) rfl, State.grant_of_no_ackReq ha]
  · refine step_of_guard (enabled_grant_iff s) fun ⟨hs, hq, hf⟩ => ?_
    rcases h with h | ⟨ha, hn⟩ | h
    · simp [hs] at h
    · simp [ha, hn] at hq
    · simp [hf] at h

/-! ### TX_TAKE before the last byte (R145, R146) -/

/-- A sequence's byte, where it has one. -/
theorem byteAt_of_getElem? {img : List Byte} {k : Nat} {b : Byte} (h : img[k]? = some b) : byteAt img k = b := by
  rw [byteAt, List.getD_eq_getElem?_getD, h, Option.getD_some]

/-- A byte that is not its frame's last goes onto the wire, and the frame is not complete. -/
theorem State.txTake_before_last {s : State} (ho : s.txOwner ≠ .none) (hp : s.txPos + 1 ≠ s.txFrameLen) :
    s.txTake = .next s.sendByte := by
  have hlast : s.sendByte.txPos ≠ s.txFrameLen := hp
  rw [State.txTake, if_neg ho, if_neg hlast]

/-- Settles O34: the owner fixes the image and the frame's length, and the byte on offer is the image's. -/
theorem byteTaken : Obligations.ByteTaken := by
  intro s img n b hbusy howner hlast hbyte
  obtain ⟨ho, himg, hlen⟩ : s.txOwner ≠ .none ∧ s.txImage = img ∧ s.txFrameLen = n := by
    rcases howner with ⟨ho, rfl, rfl⟩ | ⟨ho, rfl, rfl⟩ <;> simp [State.txImage, State.txFrameLen, hdrLen, ho]
  have hdata : s.txData = b := by rw [State.txData, himg, byteAt_of_getElem? hbyte]
  have htake : s.txTake = .next s.sendByte := State.txTake_before_last ho (by omega)
  rw [step_of_done ((enabled_txTake_iff s).mpr hbusy) rfl, htake, State.sendByte, hdata, State.armStall]

/-! ### A received RESET (R232, R302) -/

/-- What the fatal state adds to `TX_DONE`: a unit in progress is reported. -/
theorem SndState.or_busy (x : SndState) (b : Bool) :
    (b || x.busy) = if x = .send ∨ x = .wait ∨ x = .reset then true else b := by
  simp only [← x.busy_iff]
  cases x.busy <;> simp

/-- What the fatal state takes from `TX_OK`: a unit in progress has failed. -/
theorem SndState.and_not_busy (x : SndState) (b : Bool) :
    (b && !x.busy) = if x = .send ∨ x = .wait ∨ x = .reset then false else b := by
  simp only [← x.busy_iff]
  cases x.busy <;> simp

/-- A receiving dispatcher classifies a RESET frame by entering the fatal state. -/
theorem exec_resetFrame_of_recv {s : State} (id : Half) (d : List Byte) (hd : s.dsp = .recv) :
    exec (.resetFrame id d) s = .next (s.classified.raiseFatal .peerReset) := by
  simp only [exec, execReset, State.classify, if_pos hd]

/-- Settles O30: CLASSIFY's shared part and R302, with `TX_BUSY` read as the sender's states. -/
theorem resetFrameIsFatal : Obligations.ResetFrameIsFatal := by
  intro s id d hd
  rw [exec_resetFrame_of_recv id d hd, ← s.snd.or_busy, ← s.snd.and_not_busy]
  rfl

end Sys2Proof.Machine

/-! PROOFS. The outgoing stream over one step (R146, R148). -/

namespace Sys2Proof.Safety

open Sys2Proof.Machine

/-- The one writer of the outgoing stream: `tx_take`, with the byte on offer. -/
theorem fires_txStream {e : Event} {s t : State} (h : Fires e s t) : t.txStream = s.txStream ∨
    (e = .txTake ∧ s.ser = .busy ∧ t.txStream = s.txStream ++ [s.txData]) := by
  cases h with
  | byteTaken hb | attemptDone hb | resetSent hb | ackSent hb => exact .inr ⟨rfl, hb, by simp⟩
  | reset => exact .inl rfl
  | spent | arrive | rxByte | rxErr | rxTimeout | attemptFailed | resetFailed | ackFailed | ackTimeout | acked | grant
  | tick | read | readRefused | writeIgnored | writeRefused | writeStatus | writeTxLen | writeIrqEn | writeTxBuf
  | commandRefused | send | dack | startRx | missTimeout | missReject | duplicate | newData | heldOff | overwritten
  | newEnd | ackMatched | ackStale | resetFrame =>
    exact .inl (by simp)

/-- Settles O55: the writer of the wire, and the invariant's clause on the wire after every step. -/
theorem framesDoNotInterleave : Obligations.FramesDoNotInterleave :=
  ⟨fun _ _ _ hstep => fires_txStream (fires_of_step hstep),
    fun s t h hstep => (everyStepKeepsInvariant s t h hstep).ser.wire⟩

end Sys2Proof.Safety

/-! PROOFS. A byte in the hunt (R171), and a frame's bytes from a fresh round's start to the verdict (R184). -/

namespace Sys2Proof.Machine

open Sys2Proof.Safety

/-! ### The hunt (R171, R172) -/

/-- The window, its count and the count of discarded bytes after the byte `b`: a full window drops its oldest byte and
counts it, another one grows. -/
def State.WindowAfter (s : State) (b : Byte) (w : List Byte) (n c : Nat) : Prop :=
  (s.winN = 8 ∧ s.win.length = 8 ∧ w = s.win.tail ++ [b] ∧ n = 8 ∧ c = s.huntCnt + 1) ∨
  (s.winN < 8 ∧ s.winN ≤ s.win.length ∧ w = s.win.take s.winN ++ [b] ∧ n = s.winN + 1 ∧ c = s.huntCnt)

/-- Both markers stand in the window `w` of `n` bytes. -/
def SyncTwice (p : Params) (w : List Byte) (n : Nat) : Prop := n = 8 ∧ be32 w 0 = p.sync ∧ be32 w 4 = p.sync

section

variable {s : State} {b : Byte} {w : List Byte} {n c : Nat}

/-- The window takes a byte. -/
theorem State.WindowAfter.slideWin_eq (h : s.WindowAfter b w n c) :
    s.slideWin b = { s with win := w, winN := n, huntCnt := c } := by
  rcases h with ⟨hn, hw, rfl, rfl, rfl⟩ | ⟨hn, -, rfl, rfl, rfl⟩
  · have htail : (s.win.drop 1).take 7 = s.win.tail := by
      rw [List.drop_one, List.take_of_length_le (by simp [hw])]
    rw [State.slideWin, if_pos hn, htail, ← hn]
  · rw [State.slideWin, if_neg hn.ne]

/-- The match test reads the window as it stands. -/
theorem State.syncMatch_iff (s : State) : s.syncMatch = true ↔ SyncTwice s.cfg s.win s.winN := by
  simp [State.syncMatch, SyncTwice, and_assoc]

/-- The state after HUNT_BYTE has written the window `w` of `n` bytes and the count `c`, before the match test. -/
def State.withWindow (s : State) (w : List Byte) (n c : Nat) : State :=
  { s with rxTmr := some s.cfg.rxTimeout, win := w, winN := n, huntCnt := c }

variable (hdes : s.des = .hunt) (h : s.WindowAfter b w n c)

include hdes h

/-- HUNT_BYTE: the match test and the limit test read the window and the count as the byte leaves them. -/
theorem State.takeByte_hunt : s.takeByte b =
    if (s.withWindow w n c).syncMatch then { s.withWindow w n c with cand := w, candN := 8, des := .hdr }
    else if c = huntLimit s.cfg then (s.withWindow w n c).rejectRound .sync
    else s.withWindow w n c := by
  have hslide : s.armRx.slideWin b = s.withWindow w n c := State.WindowAfter.slideWin_eq (s := s.armRx) h
  simp only [State.takeByte, hdes, State.huntByte, hslide]
  rfl

/-- Both markers in the window start a candidate, whatever the count (R171, R172). -/
theorem State.takeByte_of_sync (hm : SyncTwice s.cfg w n) :
    s.takeByte b = { s.withWindow w n c with cand := w, candN := 8, des := .hdr } := by
  have hmatch : (s.withWindow w n c).syncMatch = true := (State.syncMatch_iff _).mpr hm
  rw [State.takeByte_hunt hdes h, if_pos hmatch]

variable (hm : ¬SyncTwice s.cfg w n)

include hm

/-- No match when the count is at the limit (R171). -/
theorem State.takeByte_at_huntLimit (hc : c = huntLimit s.cfg) :
    s.takeByte b = { s.withWindow w n c with rxr := .reject .sync } := by
  have hmatch : ¬(s.withWindow w n c).syncMatch = true := mt (State.syncMatch_iff _).mp hm
  rw [State.takeByte_hunt hdes h, if_neg hmatch, if_pos hc, State.rejectRound]

/-- No match below the limit (R171). -/
theorem State.takeByte_below_huntLimit (hc : c ≠ huntLimit s.cfg) : s.takeByte b = s.withWindow w n c := by
  have hmatch : ¬(s.withWindow w n c).syncMatch = true := mt (State.syncMatch_iff _).mp hm
  rw [State.takeByte_hunt hdes h, if_neg hmatch, if_neg hc]

end

/-- Settles O41: the window after the byte, and what the match and then the count make of it. -/
theorem huntByte : Obligations.HuntByte := by
  intro s b rest w n c hd hr hdes hx h
  refine ⟨fun hm => ?_, fun hm hc => ?_, fun hm hc => ?_⟩ <;> refine step_rxByte hd hr hx ?_
  · exact State.takeByte_of_sync (s := { s with rxStream := rest }) hdes h hm
  · exact State.takeByte_at_huntLimit (s := { s with rxStream := rest }) hdes h hm hc
  · exact State.takeByte_below_huntLimit (s := { s with rxStream := rest }) hdes h hm hc

/-! ### The bytes a round has taken -/

/-- The hunt of a fresh round has taken the bytes `c`, fewer than the markers' 8. -/
def State.HuntHolds (s : State) (c : List Byte) : Prop :=
  s.des = .hunt ∧ c.length < 8 ∧ s.winN = c.length ∧ s.win.take s.winN = c ∧ s.huntCnt = 0

/-- The bytes `c` stand in the candidate, their end in the header or in the payload. -/
def State.CandHolds (s : State) (c : List Byte) : Prop :=
  s.candN = c.length ∧ s.cand = c ∧
  ((s.des = .hdr ∧ 8 ≤ c.length ∧ c.length ≤ 14) ∨ (s.des = .pay ∧ 15 ≤ c.length ∧ s.candPl = be16 c 10))

section

variable {s : State} {b : Byte} {c bs : List Byte}

/-- A byte in the hunt of a frame: the 8th completes both markers (R171). -/
theorem State.HuntHolds.takeByte (h : s.HuntHolds c) (hf : Framed s.cfg (c ++ [b] ++ bs)) :
    ((s.takeByte b).HuntHolds (c ++ [b]) ∨ (s.takeByte b).CandHolds (c ++ [b])) ∧ (s.takeByte b).rxr = s.rxr := by
  obtain ⟨hdes, h8, hn, hw, hc⟩ := h
  have hlen : (c ++ [b]).length = c.length + 1 := by simp
  have hafter : s.WindowAfter b (c ++ [b]) (c ++ [b]).length 0 := by
    have hwin : s.winN ≤ s.win.length := by rw [hn, ← hw]; simp
    exact .inr ⟨by omega, hwin, by rw [hw], by omega, hc.symm⟩
  by_cases h7 : c.length = 7
  · have hm : SyncTwice s.cfg (c ++ [b]) (c ++ [b]).length :=
      ⟨by omega, (be32_append_left _ bs 0 (by omega)).symm.trans hf.sync1,
        (be32_append_left _ bs 4 (by omega)).symm.trans hf.sync2⟩
    rw [State.takeByte_of_sync hdes hafter hm]
    exact ⟨.inr ⟨hm.1.symm, rfl, .inl ⟨rfl, by omega, by omega⟩⟩, rfl⟩
  · have hm : ¬SyncTwice s.cfg (c ++ [b]) (c ++ [b]).length := fun h => h7 (by have := h.1; omega)
    have hlimit : 0 ≠ huntLimit s.cfg := by rw [huntLimit, frameMax, hdrLen]; omega
    rw [State.takeByte_below_huntLimit hdes hafter hm hlimit]
    exact ⟨.inl ⟨hdes, by omega, rfl, List.take_length, rfl⟩, rfl⟩

/-- A framed sequence has a whole header. -/
theorem framed_header {p : Params} {img : List Byte} (hf : Framed p img) : 15 ≤ img.length :=
  hf.size ▸ Nat.le_add_right ..

/-- The length field, once it has come, counts the bytes still to come. -/
theorem framed_prefix {p : Params} {xs : List Byte} (hf : Framed p (xs ++ bs)) (hxs : 12 ≤ xs.length) :
    (be16 xs 10).toNat ≤ p.maxPayload ∧ xs.length + bs.length = 15 + (be16 xs 10).toNat := by
  have hfield : be16 (xs ++ bs) 10 = be16 xs 10 := be16_append_left _ _ _ (by omega)
  have hsize := hf.size
  rw [hfield, List.length_append] at hsize
  exact ⟨hfield ▸ hf.length_le, hsize⟩

/-- The candidate with its next byte. -/
theorem State.CandHolds.pushed (h : s.CandHolds c) (b : Byte) :
    s.candN + 1 = (c ++ [b]).length ∧ s.cand.take s.candN ++ [b] = c ++ [b] := by
  obtain ⟨hn, hcand, -⟩ := h
  simp [hn, hcand]

/-- The length field as the header's end would take it. -/
theorem State.CandHolds.takeLength_candPl (h : s.CandHolds c) (b : Byte) :
    (s.takeLength b).candPl = be16 (c ++ [b]) 10 := congrArg (be16 · 10) (h.pushed b).2

/-- A byte of a candidate before the frame's last (R173 to R175). -/
theorem State.CandHolds.takeByte (h : s.CandHolds c) (hf : Framed s.cfg (c ++ [b] ++ bs)) (hbs : bs ≠ []) :
    (s.takeByte b).CandHolds (c ++ [b]) ∧ (s.takeByte b).rxr = s.rxr := by
  obtain ⟨hlen, hcand⟩ := h.pushed b
  have hfield := h.takeLength_candPl b
  have hmore := List.length_pos_iff.mpr hbs
  obtain ⟨hn, -, ⟨hdes, h8, h14⟩ | ⟨hdes, h15, hpl⟩⟩ := h
  · rcases h14.lt_or_eq with h14 | h14
    · rw [State.takeByte_before_last b (.inl ⟨hdes, by omega⟩)]
      exact ⟨⟨hlen, hcand, .inl ⟨hdes, by omega, by omega⟩⟩, rfl⟩
    · obtain ⟨hle, hsize⟩ := framed_prefix hf (by omega)
      rw [← hfield] at hle hsize
      have hpos : (s.takeLength b).candPl ≠ 0 := fun h0 => by
        have : (s.takeLength b).candPl.toNat = 0 := congrArg BitVec.toNat h0
        omega
      rw [State.takeByte_of_length_admitted b hdes (hn.trans h14) hpos hle]
      exact ⟨⟨hlen, hcand, .inr ⟨rfl, by omega, hfield⟩⟩, rfl⟩
  · obtain ⟨-, hsize⟩ := framed_prefix hf (by omega)
    have hpl : s.candPl = be16 (c ++ [b]) 10 := hpl.trans (be16_append_left _ _ _ (by omega)).symm
    rw [← hpl] at hsize
    rw [State.takeByte_before_last b (.inr ⟨hdes, by omega⟩)]
    exact ⟨⟨hlen, hcand, .inr ⟨hdes, by omega, hpl⟩⟩, rfl⟩

/-- The byte that completes a frame is the candidate's last: with it the candidate counts `15 + L` bytes. -/
theorem State.CandHolds.lastByte (h : s.CandHolds c) (hf : Framed s.cfg (c ++ [b])) : s.LastByte b := by
  have hlen := (h.pushed b).1
  have hfield := h.takeLength_candPl b
  obtain ⟨hn, -, hphase⟩ := h
  have hheader := framed_header hf
  obtain ⟨-, hsize⟩ := framed_prefix (bs := []) (by rwa [List.append_nil]) (by omega)
  rw [List.length_nil, ← hlen] at hsize
  rcases hphase with ⟨hdes, -, h14⟩ | ⟨hdes, h15, hpl⟩
  · have hzero : be16 (c ++ [b]) 10 = 0#16 := BitVec.eq_of_toNat_eq (by rw [BitVec.toNat_zero]; omega)
    exact .inl ⟨hdes, by omega, hfield.trans hzero⟩
  · have hpl : s.candPl = be16 (c ++ [b]) 10 := hpl.trans (be16_append_left _ _ _ (by omega)).symm
    exact .inr ⟨hdes, hpl ▸ hsize, hfield.trans hpl.symm⟩

/-- A frame's last byte ends the round with the verdict on the whole frame (R174 to R176). -/
theorem State.CandHolds.takeByte_last (h : s.CandHolds c) (hf : Framed s.cfg (c ++ [b])) :
    (s.takeByte b).rxr = verdict (validate (c ++ [b])) := by
  have hcand : s.candN ≤ s.cand.length := by
    obtain ⟨hn, hc, -⟩ := h
    rw [hn, hc]
  rw [State.takeByte_last (h.lastByte hf) hcand]
  exact congrArg (fun img => verdict (validate img)) (h.pushed b).2

end

/-! ### A frame's bytes in a row (R184) -/

/-- The rest of `s` once the chosen transition and the first waiting byte are taken. -/
def State.popByte (s : State) : State := { s with rxStream := s.rxStream.tail, agenda := s.agenda.tail }

/-- A state whose agenda chooses `rx_byte` next. -/
theorem step_rxByte_of_agenda {s : State} {b : Byte} {rest : List Byte} {es : List Event} (hd : s.dsp = .recv)
    (hr : s.rxr = .empty) (hx : s.rxStream = b :: rest) (ha : s.agenda = .rxByte :: es) :
    step s = .next (s.popByte.takeByte b) := by
  have hs : s = chosen .rxByte { s with agenda := es } := by rw [chosen, ← ha]
  have hpop : s.popByte = { s with rxStream := rest, agenda := es } := by
    rw [State.popByte, hx, ha, List.tail_cons, List.tail_cons]
  rw [hpop, hs]
  exact step_rxByte (s := { s with agenda := es }) hd hr hx rfl

/-- Since the state `s₀` the deserializer has taken bytes and no other transition fired: the bytes `bs` stand next in
the stream, before `rest`, and `rx_byte` is chosen once for each. -/
structure Taking (s₀ s : State) (rest bs : List Byte) : Prop where
  cfg : s.cfg = s₀.cfg
  ls : s.ls = s₀.ls
  dsp : s.dsp = .recv
  agenda : s.agenda = List.replicate bs.length .rxByte ++ s₀.agenda
  stream : s.rxStream = bs ++ rest

section

variable {s₀ s : State} {b : Byte} {rest c bs : List Byte}

/-- The next byte is taken. -/
theorem Taking.step (h : Taking s₀ s rest (b :: bs)) (hr : s.rxr = .empty) :
    step s = .next (s.popByte.takeByte b) ∧ Taking s₀ (s.popByte.takeByte b) rest bs := by
  obtain ⟨hcfg, hls, hd, ha, hx⟩ := h
  refine ⟨step_rxByte_of_agenda hd hr hx ha, ?_⟩
  constructor <;> simp [State.popByte, *]

/-- The bytes of a framed sequence, taken one by one, end with the verdict on it. -/
theorem Taking.runs (h : Taking s₀ s rest bs) (hbs : bs ≠ []) (hr : s.rxr = .empty)
    (hc : s.HuntHolds c ∨ s.CandHolds c) (hf : Framed s₀.cfg (c ++ bs)) :
    ∃ t, runs bs.length s = .next t ∧ t.rxr = verdict (validate (c ++ bs)) ∧ Taking s₀ t rest [] := by
  induction bs generalizing s c with
  | nil => exact absurd rfl hbs
  | cons b bs ih =>
    obtain ⟨hstep, hnext⟩ := h.step hr
    have hcfg : s.popByte.cfg = s₀.cfg := h.cfg
    rw [List.append_cons, ← hcfg] at hf
    rw [List.append_cons, List.length_cons, runs_succ _ _ _ hstep]
    rcases hc with hc | hc
    · have hc : s.popByte.HuntHolds c := hc
      obtain ⟨hc', hr'⟩ := hc.takeByte hf
      have hmore : bs ≠ [] := by
        obtain ⟨-, h8, -⟩ := hc
        have hheader := framed_header hf
        rintro rfl
        simp only [List.append_nil, List.length_append, List.length_singleton] at hheader
        omega
      exact ih hnext hmore (hr'.trans hr) hc' (hcfg ▸ hf)
    · have hc : s.popByte.CandHolds c := hc
      by_cases hlast : bs = []
      · subst hlast
        rw [List.append_nil] at hf ⊢
        exact ⟨_, rfl, hc.takeByte_last hf, hnext⟩
      · obtain ⟨hc', hr'⟩ := hc.takeByte hf hlast
        exact ih hnext hlast (hr'.trans hr) (.inr hc') (hcfg ▸ hf)

end

/-- The validator accepts an image with legal flags and an id they admit (R177 to R179). -/
theorem validate_frameImage_of_legal {p : Params} {id : Half} {f : Byte} {d : List Byte} (hp : p.Wf)
    (hd : d.length ≤ p.maxPayload)
    (h : f = 0x20 ∨ ((f = 0x00 ∨ f = 0x80 ∨ f = 0x40) ∧ (id = 0 ∨ id = 1))) :
    validate (frameImage p id f d) = .ok ⟨id, f, BitVec.ofNat 16 d.length, d⟩ := by
  have hid : be16 (frameImage p id f d) 12 = id := rawImage_id ..
  have hflags : byteAt (frameImage p id f d) 14 = f := rawImage_flags ..
  have hlen : be16 (frameImage p id f d) 10 = BitVec.ofNat 16 d.length := rawImage_len ..
  have hpayload : (frameImage p id f d).drop 15 = d := rawImage_payload ..
  rw [validate_accepts (framed_frameImage hp hd).size (frameImage_cksum p id f d) (by rwa [hflags, hid]), hid, hflags,
    hlen, hpayload]

/-- Settles O57: the frame's image is framed, so the round takes it whole, and the validator accepts it. -/
theorem wireRoundTrip : Obligations.WireRoundTrip := by
  intro s id flags d rest hp hlegal hd hdsp hr hdes hwin hcnt hx
  have hlen : (frameImage s.cfg id flags d).length = 15 + d.length := frameImage_length ..
  have hnil : frameImage s.cfg id flags d ≠ [] := List.ne_nil_of_length_pos (by omega)
  have htaking : Taking s (choosing (List.replicate (15 + d.length) .rxByte) s) rest (frameImage s.cfg id flags d) :=
    ⟨rfl, rfl, hdsp, by rw [hlen]; rfl, hx⟩
  have hfresh : s.HuntHolds [] := ⟨hdes, by decide, hwin, by rw [hwin]; rfl, hcnt⟩
  obtain ⟨t, hruns, hslot, -, hls, hrecv, hagenda, hstream⟩ :=
    htaking.runs hnil hr (.inl hfresh) (framed_frameImage hp hd)
  rw [hlen] at hruns
  refine ⟨t, hruns, ?_, hstream, hrecv, hls, hagenda⟩
  rw [hslot, List.nil_append, validate_frameImage_of_legal hp hd hlegal, verdict]

end Sys2Proof.Machine

/-! PROOFS. SEND, the ends of the sender's frames, ACKED and ACK_TIMEOUT (R200 to R208). -/

namespace Sys2Proof.Machine

open Sys2Proof.Safety

/-! ### SEND (R200, R264) -/

/-- SEND under one of R264's refusals is a command error. -/
theorem exec_send_refused {s : State} (final : Bool) {nl : Bool} (h : s.sendRefused nl = true) :
    exec (.send final nl) s = .next s.commandError := by
  simp only [exec, execSend, if_pos h]

/-- SEND under none of them is ACCEPT. -/
theorem exec_send_accepted {s : State} (final : Bool) {nl : Bool} (h : ¬s.sendRefused nl = true) :
    exec (.send final nl) s = .next (s.accept final nl) := by
  simp only [exec, execSend, if_neg h]

/-- Settles O22: none of R264's refusals holds, and ACCEPT's payload is read byte by byte. -/
theorem sendAccepted : Obligations.SendAccepted := by
  intro s final nl hf hs hl hn
  have hallowed : ¬s.sendRefused nl = true := fun h => by
    rcases (s.sendRefused_iff nl).mp h with h | h | h | h
    · simp [hf] at h
    · exact h hs
    · simp [hl] at h
    · omega
  exact ⟨s.sendPayload nl, rfl, exec_send_accepted final hallowed⟩

/-- Settles O23: each condition is one of R264's refusals. -/
theorem sendRefused : Obligations.SendRefused :=
  fun s final nl h => exec_send_refused final ((s.sendRefused_iff nl).mpr h)

/-! ### The end of a frame (R146, R147) -/

/-- The last byte of the frame being sent is taken; its owner's next step is still to come (R146). -/
def State.frameTaken (s : State) : State := s.sendByte.endFrame { s.cnt with txFrames := bump s.cnt.txFrames }

/-- The frame being sent is abandoned; its owner's next step is still to come (R147). -/
def State.frameFailed (s : State) : State := s.endFrame { s.cnt with txIoErr := bump s.cnt.txIoErr }

/-- The last byte of a frame completes it for its owner. -/
theorem State.txTake_last {s : State} (ho : s.txOwner ≠ .none) (hp : s.txPos + 1 = s.txFrameLen) :
    s.txTake = s.frameTaken.completion s.txOwner := by
  have hlast : s.sendByte.txPos = s.txFrameLen := hp
  rw [State.txTake, if_neg ho, if_pos hlast, State.frameTaken]

/-- A write error or a stall abandons the frame being sent. -/
theorem step_of_frameFails {s : State} {e : Event} (he : s.FrameFails e) (hb : s.ser = .busy) :
    step (chosen e s) = s.frameFailed.failure s.txOwner := by
  rcases he with rfl | ⟨rfl, ht⟩
  · exact step_of_done ((enabled_txErr_iff s).mpr hb) rfl
  · exact step_of_done ((enabled_txStall_iff s).mpr ⟨hb, ht⟩) rfl

/-- What follows a completed frame of the sender: the unit's attempt is done, or its RESET frame is. -/
theorem State.completion_snd (s : State) :
    (s.snd = .send → s.completion .snd = .next s.attemptDone) ∧
    (s.snd = .reset → s.completion .snd = .next (s.raiseFatal .exhausted)) := by
  constructor <;> intro hs <;> simp only [State.completion, hs]

/-- What follows a failed frame of the sender: the unit's attempt failed, or its RESET frame did. -/
theorem State.failure_snd (s : State) :
    (s.snd = .send → s.failure .snd = .next s.attemptFail) ∧
    (s.snd = .reset → s.failure .snd = .next (s.raiseFatal .exhausted)) := by
  constructor <;> intro hs <;> simp only [State.failure, hs]

section

variable {s : State} {e : Event} (hb : s.ser = .busy) (ho : s.txOwner = .snd)

include hb ho

/-- The last byte of a frame of the sender. -/
theorem step_txTake_last_of_snd (hp : s.txPos + 1 = s.sndLen) :
    step (chosen .txTake s) = s.frameTaken.completion .snd := by
  have howned : s.txOwner ≠ .none := by simp [ho]
  have hlast : s.txPos + 1 = s.txFrameLen := by rw [hp, State.txFrameLen, ho]
  rw [step_of_done ((enabled_txTake_iff s).mpr hb) rfl, State.txTake_last howned hlast, ho]

/-- A failed frame of a unit is a failed attempt (R204). -/
theorem step_attemptFail (hs : s.snd = .send) (he : s.FrameFails e) :
    step (chosen e s) = .next s.frameFailed.attemptFail := by
  rw [step_of_frameFails he hb, ho]
  exact s.frameFailed.failure_snd.1 hs

/-- A failed RESET frame enters the fatal state (R208). -/
theorem step_resetFailed (hs : s.snd = .reset) (he : s.FrameFails e) :
    step (chosen e s) = .next (s.frameFailed.raiseFatal .exhausted) := by
  rw [step_of_frameFails he hb, ho]
  exact s.frameFailed.failure_snd.2 hs

end

/-! ### The unit's frame (R203, R204) -/

/-- Settles O35: the frame is complete, and the attempt with it. -/
theorem attemptCompletes : Obligations.AttemptCompletes := by
  intro s b hb ho hs hp hbyte
  have hdata : s.txData = b := by rw [State.txData, State.txImage, ho, byteAt_of_getElem? hbyte]
  have hsend : s.frameTaken.snd = .send := hs
  rw [step_txTake_last_of_snd hb ho hp, (State.completion_snd _).1 hsend, State.frameTaken, State.sendByte, hdata]
  rfl

/-- The last attempt that fails gives the unit up. -/
theorem State.attemptFail_at_limit {s : State} (h : (s.attempts + 1).toNat = s.cfg.maxAttempts) :
    s.attemptFail = State.giveUp { s with attempts := s.attempts + 1 } := if_pos h

/-- An earlier one queues the next attempt. -/
theorem State.attemptFail_below_limit {s : State} (h : (s.attempts + 1).toNat ≠ s.cfg.maxAttempts) :
    s.attemptFail = { s with
      attempts := s.attempts + 1, sndReq := true, cnt := { s.cnt with retx := bump s.cnt.retx } } := if_neg h

/-- Settles O36: ATTEMPT_FAIL on both sides of the limit. -/
theorem attemptFails : Obligations.AttemptFails := by
  intro s e he hb ho hs
  rw [step_attemptFail hb ho hs he]
  exact ⟨fun h => congrArg _ (State.attemptFail_below_limit (s := s.frameFailed) h),
    fun h => congrArg _ (State.attemptFail_at_limit (s := s.frameFailed) h)⟩

/-! ### The sender's RESET frame (R208, R302) -/

/-- The frame being sent ends with the event `e`: taken whole, or failed. -/
def State.frameEnded (s : State) (e : Event) : State := if e = .txTake then s.frameTaken else s.frameFailed

/-- Fields after a frame's end by either way. -/
theorem State.frameEnded_fields (s : State) (e : Event) :
    (s.frameEnded e).ls = s.ls ∧ (s.frameEnded e).snd = s.snd ∧ (s.frameEnded e).attempts = s.attempts ∧
    (s.frameEnded e).mem = s.mem ∧ (s.frameEnded e).epoch = s.epoch ∧
    (s.frameEnded e).cnt = if e = .txTake then { s.cnt with txFrames := s.cnt.txFrames + 1 }
      else { s.cnt with txIoErr := s.cnt.txIoErr + 1 } := by
  unfold State.frameEnded
  split <;> exact ⟨rfl, rfl, rfl, rfl, rfl, rfl⟩

/-- The end of the sender's RESET frame enters the fatal state. -/
theorem step_resetEnded {s : State} {e : Event} (hb : s.ser = .busy) (ho : s.txOwner = .snd) (hs : s.snd = .reset)
    (he : (e = .txTake ∧ s.txPos + 1 = s.sndLen) ∨ s.FrameFails e) :
    step (chosen e s) = .next ((s.frameEnded e).raiseFatal .exhausted) := by
  rcases he with ⟨rfl, hp⟩ | he
  · rw [step_txTake_last_of_snd hb ho hp, State.frameEnded, if_pos rfl]
    exact s.frameTaken.completion_snd.2 hs
  · have hfail : e ≠ .txTake := by rcases he with rfl | ⟨rfl, -⟩ <;> decide
    rw [step_resetFailed hb ho hs he, State.frameEnded, if_neg hfail]

/-- Entering the fatal state during a unit reports the unit failed (R302). -/
theorem State.raiseFatal_of_busy {s : State} (c : FatalCause) (h : s.snd.busy = true) :
    (s.raiseFatal c).txDone = true ∧ (s.raiseFatal c).txOk = false := by
  simp [h]

/-- Settles O37: the fatal state's fields, with a unit in progress. -/
theorem resetSentIsFatal : Obligations.ResetSentIsFatal := by
  intro s e hb ho hs he
  obtain ⟨hls, hsnd, hattempts, hmem, hepoch, hcnt⟩ := s.frameEnded_fields e
  obtain ⟨hdone, hok⟩ := State.raiseFatal_of_busy .exhausted (s := s.frameEnded e) (by rw [hsnd, hs, SndState.busy])
  exact ⟨_, step_resetEnded hb ho hs he, rfl, rfl, hdone, hok, rfl, rfl, rfl, rfl, rfl, rfl, rfl, rfl, rfl, rfl, rfl,
    rfl, hls, hattempts, hcnt, State.byteOf_congr hmem hepoch⟩

/-! ### The wait for the ACK (R205, R206) -/

/-- Settles O39: ACKED, with the flip of the id as an exclusive or. -/
theorem ackedUnitSucceeds : Obligations.AckedUnitSucceeds := by
  intro s hs ha
  have hend : (s.ls.localEnd || s.sndFinal) = if s.sndFinal then true else s.ls.localEnd := by
    cases s.sndFinal <;> simp
  rw [step_of_done ((enabled_acked_iff s).mpr ⟨hs, ha⟩) rfl, State.acked, one_sub_eq_xor, hend]

/-- Settles O40: ACK_TIMEOUT on both sides of the limit. -/
theorem ackTimeoutRetransmits : Obligations.AckTimeoutRetransmits := by
  intro s hs ha ht
  rw [step_of_done ((enabled_ackTimeout_iff s).mpr ⟨hs, ha, ht⟩) rfl]
  exact ⟨fun h => congrArg _ (if_neg h), fun h => congrArg _ (if_pos h)⟩

end Sys2Proof.Machine

/-! PROOFS. Chosen transitions in a row, and a unit whose every attempt fails (R201, R204, R208, R211). -/

namespace Sys2Proof.Safety

open Sys2Proof.Machine

/-! ### Chosen transitions in a row -/

/-- The transitions `es`, chosen to fire next, take the block from `s` to `t`, whatever is chosen to follow them. -/
def Leads (es : List Event) (s t : State) : Prop :=
  ∀ rest, runs es.length (choosing (es ++ rest) s) = .next (choosing rest t)

/-- No transition. -/
theorem leads_nil (s : State) : Leads [] s s := fun _ => rfl

/-- One transition. -/
theorem leads_singleton {e : Event} {s t : State}
    (h : ∀ rest, step (chosen e (choosing rest s)) = .next (choosing rest t)) : Leads [e] s t :=
  fun rest => runs_choosing 0 e rest s _ (h rest)

section

variable {es fs : List Event} {s t u : State}

/-- Some transitions, and then others. -/
theorem Leads.append (h : Leads es s t) (h' : Leads fs t u) : Leads (es ++ fs) s u := by
  intro rest
  rw [List.append_assoc, List.length_append, runs_add _ _ _ _ (h _), h']

/-- The run of the chosen transitions alone. -/
theorem Leads.runs (h : Leads es s t) : runs es.length (choosing es s) = .next t := by
  have hruns := h []
  rwa [List.append_nil] at hruns

end

/-! ### One failed attempt -/

/-- ATTEMPT_FAIL does not depend on what is chosen to follow. -/
theorem attemptFail_choosing (es : List Event) (s : State) :
    (choosing es s).attemptFail = choosing es s.attemptFail := by
  rcases s.attemptFail_cases with ⟨h, hfail⟩ | ⟨h, hfail⟩ <;> rw [hfail]
  · exact State.attemptFail_at_limit (s := choosing es s) h
  · exact State.attemptFail_below_limit (s := choosing es s) h

/-- The sender's request is the only one, and the serializer is free to grant it (R144). -/
structure OnlySenderAsks (s : State) : Prop where
  fatal : s.fatal = false
  ser : s.ser = .idle
  ackReq : s.ackReq = false
  sndReq : s.sndReq = true

section

variable {s : State} (h : OnlySenderAsks s)

include h

/-- The grant goes to the sender. -/
theorem OnlySenderAsks.leads_grant : Leads [.grant] s s.grant ∧ s.grant.txOwner = .snd := by
  obtain ⟨hf, hidle, hack, hreq⟩ := h
  refine ⟨leads_singleton fun rest => ?_, by simp [hack]⟩
  exact step_of_done ((enabled_grant_iff (choosing rest s)).mpr ⟨hidle, .inr hreq, hf⟩) rfl

/-- A write error ends an attempt of the unit. -/
theorem OnlySenderAsks.leads_attemptFail (hs : s.snd = .send) :
    Leads [.grant, .txErr] s s.grant.frameFailed.attemptFail := by
  obtain ⟨hgrant, ho⟩ := h.leads_grant
  refine hgrant.append (leads_singleton fun rest => ?_)
  rw [← attemptFail_choosing]
  exact step_attemptFail (s := choosing rest s.grant) rfl ho hs (.inl rfl)

/-- A write error ends the sender's RESET frame. -/
theorem OnlySenderAsks.leads_fatal (hs : s.snd = .reset) :
    Leads [.grant, .txErr] s (s.grant.frameFailed.raiseFatal .exhausted) := by
  obtain ⟨hgrant, ho⟩ := h.leads_grant
  exact hgrant.append (leads_singleton fun rest =>
    step_resetFailed (s := choosing rest s.grant) rfl ho hs (.inl rfl))

end

/-! ### Every attempt fails -/

/-- Since the state `s₀` all `k` attempts of its unit have failed, and the next frame is queued: the unit's again, or
after the last attempt the RESET frame. -/
structure AttemptsFailed (s₀ : State) (k : Nat) (s : State) : Prop extends OnlySenderAsks s where
  cfg : s.cfg = s₀.cfg
  wire : s.txStream = s₀.txStream
  attempts : s.attempts.toNat = k
  ioErr : s.cnt.txIoErr = s₀.cnt.txIoErr + BitVec.ofNat 32 k
  below : k < s₀.cfg.maxAttempts → s.snd = .send ∧ s.cnt.retx = s₀.cnt.retx + BitVec.ofNat 32 k
  atLimit : k = s₀.cfg.maxAttempts → s.snd = .reset ∧
    s.sndImg = frameImage s₀.cfg s₀.cfg.resetId Kind.reset.flags [] ∧
    s.cnt.retx = s₀.cnt.retx + BitVec.ofNat 32 (k - 1)

/-- One more count. -/
theorem bump_add_ofNat (c : BitVec 32) (k : Nat) : bump (c + BitVec.ofNat 32 k) = c + BitVec.ofNat 32 (k + 1) := by
  rw [bump, BitVec.ofNat_add, BitVec.add_assoc]
  rfl

section

variable {s₀ s : State} {k : Nat}

/-- One more attempt fails. -/
theorem AttemptsFailed.attemptFail (h : AttemptsFailed s₀ k s) (hp : s₀.cfg.Wf) (hk : k < s₀.cfg.maxAttempts) :
    AttemptsFailed s₀ (k + 1) s.grant.frameFailed.attemptFail := by
  obtain ⟨⟨hf, -, -, -⟩, hcfg, hwire, hattempts, hio, hbelow, -⟩ := h
  obtain ⟨hs, hretx⟩ := hbelow hk
  obtain ⟨-, ⟨-, h31⟩, -⟩ := hp
  have hcount : (s.attempts + 1).toNat = k + 1 := by
    rw [← hattempts]
    exact BitVec.toNat_add_of_lt (y := 1#5) (by rw [hattempts, BitVec.toNat_one (by decide)]; omega)
  have hio' : bump s.cnt.txIoErr = s₀.cnt.txIoErr + BitVec.ofNat 32 (k + 1) := by rw [hio, bump_add_ofNat]
  rcases s.grant.frameFailed.attemptFail_cases with ⟨hlimit, hfail⟩ | ⟨hlimit, hfail⟩ <;> rw [hfail]
  · have hlast : k + 1 = s₀.cfg.maxAttempts := by rw [← hcount, ← hcfg]; exact hlimit
    exact ⟨⟨hf, rfl, rfl, rfl⟩, hcfg, hwire, hcount, hio', fun hmore => absurd hlast hmore.ne,
      fun _ => ⟨rfl, by rw [← hcfg]; rfl, hretx⟩⟩
  · have hmore : k + 1 ≠ s₀.cfg.maxAttempts := by rw [← hcount, ← hcfg]; exact hlimit
    exact ⟨⟨hf, rfl, rfl, rfl⟩, hcfg, hwire, hcount, hio',
      fun _ => ⟨hs, (congrArg bump hretx).trans (bump_add_ofNat ..)⟩, fun hlast => absurd hlast hmore⟩

/-- As many attempts as are allowed may fail, each between a grant and a write error. -/
theorem AttemptsFailed.leads (h : AttemptsFailed s₀ 0 s) (hp : s₀.cfg.Wf) (hk : k ≤ s₀.cfg.maxAttempts) :
    ∃ t, AttemptsFailed s₀ k t ∧ Leads (List.replicate k [Event.grant, Event.txErr]).flatten s t := by
  induction k with
  | zero => exact ⟨s, h, leads_nil s⟩
  | succ k ih =>
    obtain ⟨t, ht, hleads⟩ := ih (Nat.le_of_succ_le hk)
    refine ⟨_, ht.attemptFail hp hk, ?_⟩
    rw [List.replicate_succ', List.flatten_concat]
    exact hleads.append (ht.leads_attemptFail (ht.below hk).1)

end

/-- Two transitions for each of `k` attempts. -/
theorem length_attempts (k : Nat) : (List.replicate k [Event.grant, Event.txErr]).flatten.length = 2 * k := by
  simp [Nat.mul_comm]

/-- Settles O58: all attempts of the unit fail, and then its RESET frame does. -/
theorem exhaustionByWriteFailures : Obligations.ExhaustionByWriteFailures := by
  intro s hp hf hs hattempts hreq hack hidle
  have hallowed : 1 ≤ s.cfg.maxAttempts := hp.2.1.1
  have hstart : AttemptsFailed s 0 s :=
    ⟨⟨hf, hidle, hack, hreq⟩, rfl, rfl, by simp [hattempts], by simp, fun _ => ⟨hs, by simp⟩, fun h => by omega⟩
  obtain ⟨t, ht, hleads⟩ := hstart.leads hp le_rfl
  obtain ⟨hreset, himg, hretx⟩ := ht.atLimit rfl
  obtain ⟨hdone, hok⟩ := State.raiseFatal_of_busy (s := t.grant.frameFailed) .exhausted (congrArg SndState.busy hreset)
  have hfatal := hleads.append (ht.leads_fatal hreset)
  rw [← List.flatten_concat, ← List.replicate_succ'] at hfatal
  have hruns := hleads.runs
  have hruns' := hfatal.runs
  rw [length_attempts] at hruns hruns'
  exact ⟨⟨t, hruns, hreset, ht.sndReq, ht.attempts, ht.fatal, himg, ht.wire, ht.ioErr, hretx⟩,
    ⟨_, hruns', rfl, rfl, hdone, hok, rfl⟩⟩

end Sys2Proof.Safety

/-! PROOFS. The events of one clock cycle (R307). -/

namespace Sys2Proof

/-- The flags byte fixes the kind, and the kind the flags byte (R100). -/
theorem Kind.ofFlags_eq_some_iff {f : Byte} {k : Kind} : Kind.ofFlags f = some k ↔ f = k.flags :=
  ⟨Kind.flags_of_ofFlags, fun h => h ▸ Kind.ofFlags_flags k⟩

namespace Machine

/-! ### The order (R307) -/

/-- An event goes before the first one of a greater item: the library's ordered insertion. -/
theorem insertByRank_eq_orderedInsert (s : State) (e : Event) (xs : List Event) :
    insertByRank s e xs = xs.orderedInsert (eventRank s ⁻¹'o (· ≤ ·)) e := by
  induction xs with
  | nil => rfl
  | cons x xs ih =>
    rw [insertByRank, ih, List.orderedInsert_cons]
    rfl

/-- A cycle is in the order of its items by the library's insertion sort. -/
theorem resolveCycle_eq_insertionSort (s : State) (es : List Event) :
    resolveCycle s es = es.insertionSort (eventRank s ⁻¹'o (· ≤ ·)) := by
  induction es with
  | nil => rfl
  | cons e es ih => rw [resolveCycle, ih, insertByRank_eq_orderedInsert, List.insertionSort_cons]

/-! ### The items (R307) -/

/-- The slot holds a frame of a kind when the frame has the kind's flags. -/
theorem State.slotHolds_iff {s : State} {f : Frame} (h : s.rxr = .frame f) (k : Kind) :
    s.slotHolds k = true ↔ f.flags = k.flags := by
  simp [State.slotHolds, h, Kind.ofFlags_eq_some_iff]

/-- The item of the dispatcher's transition with a frame in the slot: by the frame's flags. -/
theorem eventRank_dispatch {s : State} {f : Frame} (h : s.rxr = .frame f) :
    eventRank s .dispatch = if f.flags = 0x20#8 then 2 else if f.flags = 0x80#8 then 4 else 6 := by
  simp only [eventRank, State.slotHolds_iff h, Kind.flags]

/-- The events that end the sender's RESET frame: its last byte taken, or its failure. -/
theorem State.endsReset_iff (s : State) :
    (s.endsReset .txTake = true ↔ s.txOwner = .snd ∧ s.snd = .reset ∧ s.txPos + 1 = s.sndLen) ∧
    (s.endsReset .txErr = true ↔ s.txOwner = .snd ∧ s.snd = .reset) ∧
    (s.endsReset .txStall = true ↔ s.txOwner = .snd ∧ s.snd = .reset) := by
  simp [State.endsReset, and_assoc]

/-- Settles O60: the item of each event is the model's, and the order is an insertion sort by it. -/
theorem cycleOrder : Obligations.CycleOrder := by
  intro s es item hitem
  have hrank : item = eventRank s := by
    rw [hitem]
    funext e
    obtain ⟨htake, herr, hstall⟩ := s.endsReset_iff
    cases e with
    | dispatch =>
      cases hr : s.rxr with
      | frame f => exact (eventRank_dispatch hr).symm
      | empty | timeout | reject => simp [eventRank, State.slotHolds, hr]
    | txTake => simp only [eventRank, htake]
    | txErr => simp only [eventRank, herr]
    | txStall => simp only [eventRank, hstall]
    | arrive | rxByte | rxErr | rxTimeout | ackTimeout | busWrite | busRead | reset | tick | grant | acked => rfl
  rw [hrank, resolveCycle_eq_insertionSort]
  exact ⟨List.perm_insertionSort _ es, List.pairwise_insertionSort (eventRank s ⁻¹'o (· ≤ ·)) es⟩

end Machine

end Sys2Proof

/-! PROOFS. The receive dispatcher: the end of a round, MISS, the arms of CLASSIFY, and the end of the ACK frame
(R230 to R239). -/

namespace Sys2Proof.Machine

open Sys2Proof.Safety

/-! ### The end of a round (R239) -/

/-- Both ends latched stop the dispatcher, whatever `RX_MISS` is. -/
theorem State.roundEnd_of_bothEnds {s : State} (h : s.ls.peerEnd = true ∧ s.ls.localEnd = true) :
    s.roundEnd = { s with dsp := .done } := if_pos h

section

variable {s : State} (h : ¬(s.ls.peerEnd = true ∧ s.ls.localEnd = true))

include h

/-- The liveness bound stops it otherwise. -/
theorem State.roundEnd_at_limit (hm : s.rxMiss.toNat = s.cfg.maxAttempts) :
    s.roundEnd = { s with dsp := .expired } := by
  rw [State.roundEnd, if_neg h, if_pos hm]

/-- Another round starts below the bound. -/
theorem State.roundEnd_below_limit (hm : s.rxMiss.toNat ≠ s.cfg.maxAttempts) :
    s.roundEnd = State.roundStart { s with dsp := .recv } := by
  rw [State.roundEnd, if_neg h, if_neg hm]

end

/-- Settles O31: the three ends of a round. -/
theorem roundEnd : Obligations.RoundEnd :=
  fun _ => ⟨State.roundEnd_of_bothEnds, State.roundEnd_at_limit, State.roundEnd_below_limit⟩

/-! ### MISS (R230) -/

/-- The dispatcher consumes a timeout. -/
theorem step_dispatch_timeout {s : State} (hd : s.dsp = .recv) (hr : s.rxr = .timeout) :
    step (chosen .dispatch s) = .next s.missTimeout :=
  step_of_done ((enabled_dispatch_iff s).mpr ⟨hd, by simp [hr]⟩) (by simp only [fire, State.dispatch, hr])

/-- The dispatcher consumes a rejection. -/
theorem step_dispatch_reject {s : State} {r : Reject} (hd : s.dsp = .recv) (hr : s.rxr = .reject r) :
    step (chosen .dispatch s) = .next (s.missReject r) :=
  step_of_done ((enabled_dispatch_iff s).mpr ⟨hd, by simp [hr]⟩) (by simp only [fire, State.dispatch, hr])

/-- Settles O32: MISS on a timeout, and on each rejection with its code. -/
theorem missedRound : Obligations.MissedRound := by
  refine fun s hd => ⟨step_dispatch_timeout hd, fun r hr => ?_⟩
  rw [step_dispatch_reject hd hr]
  cases r <;> rfl

/-! ### The arms of DATA and END (R234 to R237) -/

section

variable {s : State} {id : Half} (hd : s.dsp = .recv)

include hd

/-- A receiving dispatcher answers a duplicate DATA or END frame alike. -/
theorem exec_of_duplicate {d : List Byte} {i : Instr} (hi : i = .dataFrame id d ∨ i = .endFrame id d)
    (h : s.isDuplicate id = true) : exec i s = .next (s.classified.duplicate id) := by
  have hdup : s.classified.isDuplicate id = true := h
  rcases hi with rfl | rfl
  · simp only [exec, execData, State.classify, if_pos hd, if_pos hdup]
  · simp only [exec, execEnd, State.classify, if_pos hd, if_pos hdup]

/-- A receiving dispatcher takes the arm of a new DATA unit. -/
theorem exec_dataFrame_of_new (d : List Byte) (h : ¬s.isDuplicate id = true) :
    exec (.dataFrame id d) s = .next (s.classified.newDataArm id d) := by
  have hnew : ¬s.classified.isDuplicate id = true := h
  simp only [exec, execData, State.classify, if_pos hd, if_neg hnew]

/-- A receiving dispatcher takes the arm of a new END unit. -/
theorem exec_endFrame_of_new (d : List Byte) (h : ¬s.isDuplicate id = true) :
    exec (.endFrame id d) s = .next (s.classified.newEnd id) := by
  have hnew : ¬s.classified.isDuplicate id = true := h
  simp only [exec, execEnd, State.classify, if_pos hd, if_neg hnew]

end

/-- Settles O27: the duplicate's arm, for either kind. -/
theorem duplicateReacknowledged : Obligations.DuplicateReacknowledged :=
  fun s id _ _ hi hd hv hid => exec_of_duplicate hd hi ((s.isDuplicate_iff id).mpr ⟨hv, hid⟩)

/-- The memory `m` is that of `s` with the payload `d` in `RXBUF[0..L-1]` (R236): those places hold the payload, and
every other place holds what it held. -/
def State.DeliveredIn (s : State) (d : List Byte) (m : Memory) : Prop :=
  (∀ (j : Nat) (h : j < d.length), ({ s with mem := m } : State).byteOf (rxBufAddr j) = d[j]) ∧
  (∀ a : Nat, (∀ j, j < d.length → a ≠ rxBufAddr j) → ({ s with mem := m } : State).byteOf a = s.byteOf a)

/-- Delivery's run of writes puts the payload there. -/
theorem State.deliveredIn_writeRun (s : State) (d : List Byte) :
    s.DeliveredIn d (Memory.writeRun s.mem (rxBufAddr 0) d) := by
  refine ⟨fun j h => ?_, fun a h => ?_⟩
  · have hread : Memory.read (Memory.writeRun s.mem (rxBufAddr 0) d) (rxBufAddr j) = some d[j] :=
      Memory.read_writeRun s.mem (rxBufAddr 0) d j h
    simp only [State.byteOf, hread, Option.getD_some]
  · simp only [State.byteOf, Memory.read_writeRun_other s.mem (rxBufAddr 0) a d h]

/-- Delivery over a payload the host has not released leaves `NEW_DATA` as it is. -/
theorem State.deliver_of_held {s : State} (d : List Byte) (h : s.ls.newData = true) :
    s.deliver d = { s with
      mem := Memory.writeRun s.mem (rxBufAddr 0) d, ls := { s.ls with rxLen := BitVec.ofNat 13 d.length } } := by
  rw [State.deliver, ← h]

/-- Settles O26: NEW_UNIT for each kind, and the memory after delivery. -/
theorem newUnitAccepted : Obligations.NewUnitAccepted := by
  intro s id d hd hid
  have hnew : ¬s.isDuplicate id = true := mt (s.isDuplicate_iff id).mp hid
  refine ⟨fun hn => ⟨_, ?_, s.deliveredIn_writeRun d⟩, exec_endFrame_of_new hd d hnew⟩
  rw [exec_dataFrame_of_new hd d hnew, State.newDataArm_of_released (s := s.classified) hn]
  rfl

/-- Settles O28: OVERRUN under each policy, and the memory after delivery. -/
theorem overrunPolicyApplies : Obligations.OverrunPolicyApplies := by
  intro s id d hd hn hid
  have hnew : ¬s.isDuplicate id = true := mt (s.isDuplicate_iff id).mp hid
  rw [exec_dataFrame_of_new hd d hnew]
  refine ⟨fun ho => ?_, fun ho => ⟨_, ?_, s.deliveredIn_writeRun d⟩⟩
  · rw [State.newDataArm_of_holdOff (s := s.classified) hn ho]
    rfl
  · rw [State.newDataArm_of_overwrite (s := s.classified) hn ho, State.newData, State.deliver_of_held]
    · rfl
    · exact hn

/-! ### The ACK arm (R233) -/

/-- A receiving dispatcher takes the ACK arm. -/
theorem exec_ackFrame_of_recv {s : State} (id : Half) (d : List Byte) (hd : s.dsp = .recv) :
    exec (.ackFrame id d) s = .next (s.classified.ackArm id) := by
  simp only [exec, execAck, State.classify, if_pos hd]

/-- Settles O29: the two cases of the ACK arm. -/
theorem ackMatchedOrStale : Obligations.AckMatchedOrStale := by
  intro s id d hd
  rw [exec_ackFrame_of_recv id d hd]
  exact ⟨fun h => congrArg _ (if_pos h), fun h => congrArg _ (if_neg h)⟩

/-! ### The end of the ACK frame (R238) -/

/-- An ACK frame that completes and one that fails both end the round. -/
theorem State.ackFrame_ends {s : State} (h : s.dsp = .ack) :
    s.completion .dsp = .next s.roundEnd ∧ s.failure .dsp = .next s.roundEnd := ⟨if_pos h, if_pos h⟩

/-- Settles O38: the last byte of the ACK frame, and its failure. -/
theorem ackSentEndsRound : Obligations.AckSentEndsRound := by
  intro s b hb ho hd
  have howned : s.txOwner ≠ .none := by simp [ho]
  refine ⟨fun hp hbyte => ?_, fun e he => ?_⟩
  · have hlast : s.txPos + 1 = s.txFrameLen := by rw [hp, State.txFrameLen, ho, hdrLen]
    have hdata : s.txData = b := by rw [State.txData, State.txImage, ho, byteAt_of_getElem? hbyte]
    rw [step_of_done ((enabled_txTake_iff s).mpr hb) rfl, State.txTake_last howned hlast, ho,
      (State.ackFrame_ends (s := s.frameTaken) hd).1, State.frameTaken, State.sendByte, hdata]
    rfl
  · rw [step_of_frameFails he hb, ho]
    exact (State.ackFrame_ends (s := s.frameFailed) hd).2

end Sys2Proof.Machine

/-! PROOFS. A silent peer: rounds that each end by `rx_timeout` and its MISS (R180, R230, R239, R354). -/

namespace Sys2Proof.Safety

open Sys2Proof.Machine

/-! ### One missed round -/

/-- The state `n` clock cycles later (R65). -/
def afterCycles (n : Nat) (s : State) : State :=
  { s with ackTmr := s.ackTmr.map (· - n), rxTmr := s.rxTmr.map (· - n), stallTmr := s.stallTmr.map (· - n) }

/-- Clock cycles in a row. -/
theorem leads_ticks (n : Nat) (s : State) : Leads (List.replicate n .tick) s (afterCycles n s) := by
  intro rest
  have hrest : choosing (List.replicate n .tick ++ rest) s = choosing (List.replicate n .tick) (choosing rest s) := by
    simp only [choosing, List.append_assoc]
  rw [hrest, List.length_replicate, timersCountCycles]
  rfl

/-- `round_end()` does not depend on what is chosen to follow. -/
theorem roundEnd_choosing (es : List Event) (s : State) : (choosing es s).roundEnd = choosing es s.roundEnd := by
  rcases s.roundEnd_cases with ⟨hpeer, hlocal, hend⟩ | ⟨hopen, hm, hend⟩ | ⟨hopen, hm, hend⟩ <;> rw [hend]
  · exact State.roundEnd_of_bothEnds (s := choosing es s) ⟨hpeer, hlocal⟩
  · exact State.roundEnd_at_limit (s := choosing es s) hopen hm
  · exact State.roundEnd_below_limit (s := choosing es s) hopen hm

/-- MISS does not either. -/
theorem missTimeout_choosing (es : List Event) (s : State) :
    (choosing es s).missTimeout = choosing es s.missTimeout := by
  rw [s.missTimeout_eq, ← roundEnd_choosing]
  rfl

/-- The transitions of a round in which no byte comes: `n` cycles, `rx_timeout`, and the dispatcher's MISS. -/
def silentRound (n : Nat) : List Event := List.replicate n .tick ++ [.rxTimeout, .dispatch]

/-- The state at the end of such a round. -/
def afterSilentRound (n : Nat) (s : State) : State := (afterCycles n s).rxTimeout.missTimeout

/-- A round whose timer stands at `n`, with an empty slot, ends so. -/
theorem leads_silentRound {n : Nat} {s : State} (hd : s.dsp = .recv) (hr : s.rxr = .empty) (ht : s.rxTmr = some n) :
    Leads (silentRound n) s (afterSilentRound n s) := by
  have hzero : (afterCycles n s).rxTmr = some 0 := by simp [afterCycles, ht]
  have htimeout : Leads [.rxTimeout] (afterCycles n s) (afterCycles n s).rxTimeout :=
    leads_singleton fun rest =>
      step_of_done ((enabled_rxTimeout_iff (choosing rest (afterCycles n s))).mpr ⟨hd, hr, hzero⟩) rfl
  have hmiss : Leads [.dispatch] (afterCycles n s).rxTimeout (afterSilentRound n s) := by
    refine leads_singleton fun rest => ?_
    rw [step_dispatch_timeout (s := choosing rest (afterCycles n s).rxTimeout) hd rfl, missTimeout_choosing,
      afterSilentRound]
  exact (leads_ticks n s).append (htimeout.append hmiss)

/-! ### Every round is missed -/

/-- Since the state `s₀` all `k` rounds were missed: the next round has started, or after the last one allowed the
dispatcher has expired. -/
structure RoundsMissed (s₀ : State) (k : Nat) (s : State) : Prop where
  cfg : s.cfg = s₀.cfg
  fatal : s.fatal = s₀.fatal
  ls : s.ls = s₀.ls
  snd : s.snd = s₀.snd
  stream : s.rxStream = s₀.rxStream
  misses : s.rxMiss.toNat = k
  timeouts : s.cnt.rxTimeout = s₀.cnt.rxTimeout + BitVec.ofNat 32 k
  lastErr : k ≠ 0 → s.lastErr = 7
  below : k < s₀.cfg.maxAttempts → s.dsp = .recv ∧ s.rxr = .empty ∧ s.rxTmr = some s₀.cfg.rxTimeout
  atLimit : k = s₀.cfg.maxAttempts → s.dsp = .expired

section

variable {s₀ s : State} {k : Nat}

/-- One more round is missed. -/
theorem RoundsMissed.next (h : RoundsMissed s₀ k s) (hp : s₀.cfg.Wf) (hk : k < s₀.cfg.maxAttempts)
    (hopen : ¬(s₀.ls.peerEnd = true ∧ s₀.ls.localEnd = true)) (n : Nat) :
    RoundsMissed s₀ (k + 1) (afterSilentRound n s) := by
  obtain ⟨hcfg, hfatal, hls, hsnd, hstream, hmisses, htimeouts, -, -, -⟩ := h
  obtain ⟨-, ⟨-, h31⟩, -⟩ := hp
  rw [← hls] at hopen
  have hcount : (s.rxMiss + 1).toNat = k + 1 := by
    rw [← hmisses]
    exact BitVec.toNat_add_of_lt (y := 1#5) (by rw [hmisses, BitVec.toNat_one (by decide)]; omega)
  have htimeouts' : bump s.cnt.rxTimeout = s₀.cnt.rxTimeout + BitVec.ofNat 32 (k + 1) := by
    rw [htimeouts, bump_add_ofNat]
  by_cases hlast : k + 1 = s₀.cfg.maxAttempts
  · have hlimit : (s.rxMiss + 1).toNat = s.cfg.maxAttempts := by rw [hcount, hlast, hcfg]
    have hend : (afterCycles n s).rxTimeout.missTimeout = _ := State.roundEnd_at_limit hopen hlimit
    rw [afterSilentRound, hend]
    exact ⟨hcfg, hfatal, hls, hsnd, hstream, hcount, htimeouts', fun _ => rfl, fun hmore => absurd hlast hmore.ne,
      fun _ => rfl⟩
  · have hlimit : (s.rxMiss + 1).toNat ≠ s.cfg.maxAttempts := by rwa [hcount, hcfg]
    have hend : (afterCycles n s).rxTimeout.missTimeout = _ := State.roundEnd_below_limit hopen hlimit
    rw [afterSilentRound, hend]
    exact ⟨hcfg, hfatal, hls, hsnd, hstream, hcount, htimeouts', fun _ => rfl,
      fun _ => ⟨rfl, rfl, by rw [← hcfg]; rfl⟩, fun hat => absurd hat hlast⟩

/-- As many rounds as are allowed may be missed. -/
theorem RoundsMissed.leads (h : RoundsMissed s₀ 0 s) (hp : s₀.cfg.Wf)
    (hopen : ¬(s₀.ls.peerEnd = true ∧ s₀.ls.localEnd = true)) (hk : k ≤ s₀.cfg.maxAttempts) :
    ∃ t, RoundsMissed s₀ k t ∧ Leads (List.replicate k (silentRound s₀.cfg.rxTimeout)).flatten s t := by
  induction k with
  | zero => exact ⟨s, h, leads_nil s⟩
  | succ k ih =>
    obtain ⟨t, ht, hleads⟩ := ih (Nat.le_of_succ_le hk)
    obtain ⟨hd, hr, htmr⟩ := ht.below hk
    refine ⟨_, ht.next hp hk hopen s₀.cfg.rxTimeout, ?_⟩
    rw [List.replicate_succ', List.flatten_concat]
    exact hleads.append (leads_silentRound hd hr htmr)

end

/-- The transitions of `k` silent rounds. -/
theorem length_silentRounds (k n : Nat) : (List.replicate k (silentRound n)).flatten.length = k * (n + 2) := by
  simp [silentRound]

/-- Settles O59: as many rounds as are allowed are missed. -/
theorem silentPeerExpires : Obligations.SilentPeerExpires := by
  intro s hp hd hr hmiss htmr hopen
  have ⟨_, ⟨hallowed, _⟩, _⟩ := hp
  have hstart : RoundsMissed s 0 s :=
    ⟨rfl, rfl, rfl, rfl, rfl, by simp [hmiss], by simp, fun h => absurd rfl h, fun _ => ⟨hd, hr, htmr⟩,
      fun h => by omega⟩
  obtain ⟨t, ht, hleads⟩ := hstart.leads hp hopen le_rfl
  have hruns := hleads.runs
  rw [length_silentRounds] at hruns
  exact ⟨t, hruns, ht.atLimit rfl, ht.misses, ht.lastErr (by omega), ht.timeouts, ht.fatal, ht.ls, ht.snd,
    ht.stream⟩

end Sys2Proof.Safety

/-! PROOFS. The host's registers `STATUS`, `TX_LEN` and `IRQ_EN` written, and the commands NOP and DACK (R263, R266,
R267, R271). -/

namespace Sys2Proof.Machine

open Sys2Proof.Safety

/-! ### Register writes (R266, R271) -/

/-- The W1C write, flag by flag. -/
theorem State.clearStatus_eq (s : State) (v : Word) : s.clearStatus v = { s with
    txDone := if v.getLsbD 1 then false else s.txDone
    cmdErr := if v.getLsbD 9 then false else s.cmdErr
    busErr := if v.getLsbD 10 then false else s.busErr } := by
  simp only [State.clearStatus, Bool.if_false_left, Bool.decide_eq_true, Bool.and_comm]

/-- Settles O16: 0x0004 is `STATUS`, and its write clears each flag by that flag's own bit. -/
theorem statusWriteClears : Obligations.StatusWriteClears := by
  intro s v
  rw [← s.clearStatus_eq v]
  exact step_of_done rfl rfl

/-- A write of `TX_LEN` while no unit is in progress. -/
theorem step_busWrite_txLen_of_free {s : State} (v : Word) (h : s.snd.busy = false) :
    step (chosen (.busWrite 0x000C#16 v) s) = .next { s with txLen := v.setWidth 13 } := by
  have hfree : s.writeTxLen v = { s with txLen := v.setWidth 13 } := by simp [State.writeTxLen, State.txBusy, h]
  rw [← hfree]
  exact step_of_done rfl rfl

/-- A write of `IRQ_EN`, in every state. -/
theorem step_busWrite_irqEn (s : State) (v : Word) :
    step (chosen (.busWrite 0x0014#16 v) s) = .next { s with irqEn := v.setWidth 5 } :=
  step_of_done rfl rfl

/-- Settles O18: `TX_LEN` with no unit in progress and with one, then `IRQ_EN`. -/
theorem txLenAndIrqEnWrites : Obligations.TxLenAndIrqEnWrites := by
  intro s v
  refine ⟨fun h => ?_, step_busWrite_txLen_of_busy v, ?_⟩
  · rw [← BitVec.setWidth_eq_extractLsb' (by decide)]
    exact step_busWrite_txLen_of_free v h
  · rw [← BitVec.setWidth_eq_extractLsb' (by decide)]
    exact step_busWrite_irqEn s v

/-! ### NOP and DACK (R263, R267) -/

/-- Settles O21: NOP's meaning does not look at the state. -/
theorem nopHasNoEffect : Obligations.NopHasNoEffect := fun _ => rfl

/-- DACK in a running block. -/
theorem exec_dack_of_running {s : State} (h : s.fatal = false) :
    exec .dack s = .next { s with ls := { s.ls with newData := false } } := by
  simp [exec, execDack, h]

/-- DACK in the fatal state. -/
theorem exec_dack_refused {s : State} (h : s.fatal = true) : exec .dack s = .next s.commandError := by
  simp only [exec, execDack, if_pos h]

/-- Settles O24: DACK in a running block, then in the fatal state. -/
theorem dackReleases : Obligations.DackReleases := fun _ => ⟨exec_dack_of_running, exec_dack_refused⟩

end Sys2Proof.Machine

/-! PROOFS. The interrupt line (R304, R310). -/

namespace Sys2Proof.Machine

/-- `RX_DONE` is set exactly in `D_DONE`. -/
theorem State.rxDone_iff (s : State) : s.rxDone = true ↔ s.dsp = .done := beq_iff_eq

/-- `RX_EXPIRED` is set exactly in `D_EXPIRED`. -/
theorem State.rxExpired_iff (s : State) : s.rxExpired = true ↔ s.dsp = .expired := beq_iff_eq

/-- R310's formula, source by source. -/
theorem State.irq_iff (s : State) : s.irq = true ↔
    (s.irqEn.getLsbD 0 = true ∧ s.txDone = true) ∨ (s.irqEn.getLsbD 1 = true ∧ s.ls.newData = true) ∨
    (s.irqEn.getLsbD 2 = true ∧ s.ls.peerEnd = true) ∨
    (s.irqEn.getLsbD 3 = true ∧ (s.dsp = .done ∨ s.dsp = .expired)) ∨
    (s.irqEn.getLsbD 4 = true ∧ s.fatal = true) := by
  simp only [State.irq, Bool.or_eq_true, Bool.and_eq_true, s.rxDone_iff, s.rxExpired_iff, or_assoc]

/-- `CMD_ERR` is not a source of the interrupt line. -/
theorem State.commandError_irq (s : State) : s.commandError.irq = s.irq := rfl

/-- `BUS_ERR` is not a source of the interrupt line. -/
theorem State.busRefuse_irq (s : State) : s.busRefuse.irq = s.irq := rfl

/-- Settles O20: R310's five sources; neither host-interface error is one of them. -/
theorem interruptLine : Obligations.InterruptLine :=
  fun s => ⟨s.irq_iff, s.commandError_irq, s.busRefuse_irq⟩

end Sys2Proof.Machine

/-! PROOFS. The reset event (R340, R342), and the invariant of the reset state (R341). -/

namespace Sys2Proof

open Sys2Proof.Machine Sys2Proof.Safety

/-- The reset event fires in every state, the fatal state included (R340). -/
theorem step_reset (s : State) : step (chosen .reset s) = .next s.hardReset :=
  step_of_done rfl rfl

/-- Settles O46: the event is `hardReset`, which builds on `resetWith` and keeps the streams and the agenda. -/
theorem resetFromEveryState : Obligations.ResetFromEveryState :=
  fun s => ⟨s.hardReset, step_reset s, rfl, rfl, rfl, rfl⟩

/-- R10's defaults are admitted parameters, whatever its `OPEN` values are. -/
theorem Config.params_wf : Config.params.Wf :=
  ⟨by decide, by decide, by decide, Nat.succ_pos _, Nat.succ_pos _, Nat.succ_pos _⟩

/-- Settles O49: R10's defaults are one of the admitted choices. -/
theorem resetMeetsInvariant : Obligations.ResetMeetsInvariant :=
  ⟨inv_resetWith Config.params_wf, fun _ hp => inv_resetWith hp⟩

end Sys2Proof
